-- ==== Sys2Proof/Word.lean ====
section
/-! DEFINITION. The two word types of the core (00_scope.md R6, R8): `u8` and `u16`. -/

namespace Sys2Proof

/-- `u8`: a register, a bus datum (00_scope.md R6, R8). -/
abbrev Byte := BitVec 8

/-- `u16`: the program counter, a bus address (00_scope.md R6, R8). -/
abbrev Word := BitVec 16

end Sys2Proof
end

