-- ==== Sys2Proof/Machine/Bits.lean ====
section
/-! DEFINITION. Slicing, concatenation and extension of 00_scope.md R9. -/

namespace Sys2Proof.Machine

/-- `lo(w) = w[7:0]`. -/
def loByte (w : Word) : Byte := BitVec.ofNat 8 w.toNat

/-- `hi(w) = w[15:8]`. -/
def hiByte (w : Word) : Byte := BitVec.ofNat 8 (w.toNat / 256)

/-- The word `h*256 + l`, `h` the high byte. -/
def mkWord (h l : Byte) : Word := BitVec.ofNat 16 (h.toNat * 256 + l.toNat)

/-- `zext_16(v)`. -/
def zext16 (v : Byte) : Word := v.setWidth 16

/-- `sext_8(v)` as a 16-bit addend: sums with it are taken modulo 65536 (20_memory.md R53). -/
def sext16 (v : Byte) : Word := v.signExtend 16

/-- `v[k]` as a truth value. -/
def bit (v : Byte) (k : Nat) : Bool := v.getLsbD k

/-- `b2i(f)`. -/
def b2i (f : Bool) : Nat := if f then 1 else 0

end Sys2Proof.Machine
end

