-- ==== Sys2Proof/Config.lean ====
section
/-! DEFINITION. What an implementation or a platform fixes (00_scope.md R7) and the one free value of the
model: what a device answers to a bus read (20_memory.md R52). -/

namespace Sys2Proof

/-- `UNDEF_OP_POLICY` (00_scope.md R7, 92_eei_decisions.md D7): what an undefined opcode does. -/
inductive UndefPolicy where
  /-- consume the opcode byte, do nothing else -/
  | nop1
  /-- the step reports an undefined-opcode fault -/
  | fault
deriving DecidableEq, Repr

/-- The named parameters of 00_scope.md R7 that every step depends on. -/
structure Params where
  /-- `UNDEF_OP_POLICY` -/
  undefPolicy : UndefPolicy
  /-- `ZP_PTR_WRAP`: the high byte of a zero-page pointer at 0xFF is read from 0x0000 (else from 0x0100) -/
  zpPtrWrap : Bool
deriving DecidableEq, Repr

/-- One bus transaction (20_memory.md R50): the two transaction ports of the block. -/
inductive BusEvent where
  /-- a read transaction: address out, datum in -/
  | read (addr : Word) (value : Byte)
  /-- a write transaction: address and datum out -/
  | write (addr : Word) (value : Byte)
deriving DecidableEq, Repr

/-- A range of addresses, both ends included, that a device of the platform answers (20_memory.md R57, R59). -/
structure Window where
  first : Word
  last  : Word
deriving DecidableEq, Repr

/-- FREE VALUE (assumption log 3): the byte a device answers when the transactions `history` (newest first)
have been made and the address is read.  "The core assumes nothing of it" (20_memory.md R52; 93_implementation_defined.md
part 1: any value), so it has no body: a claim holds whatever devices answer. -/
opaque Config.deviceByte (history : List BusEvent) (addr : Word) : Byte

end Sys2Proof
end

