-- ==== Sys2Proof/Machine/State.lean ====
section
/-! DEFINITION. The state of the machine (10_state.md), the state after reset (R38), and the reasons a step stops. -/

namespace Sys2Proof.Machine

/-- The seven stored flags (10_state.md R25).  The status byte P is packed from them, never stored (R27). -/
structure Flags where
  /-- Negative -/
  n : Bool
  /-- Overflow -/
  v : Bool
  /-- Break-indicator (R36) -/
  b : Bool
  /-- Decimal -/
  d : Bool
  /-- IRQ-disable -/
  i : Bool
  /-- Zero -/
  z : Bool
  /-- Carry -/
  c : Bool
deriving DecidableEq, Repr

/-- Plain memory as the listed bytes (20_memory.md R51); its canonical form is `Memory.wf`. -/
abbrev Memory := List Host.Cell

/-- The state of the core (10_state.md R20, R25, R31 to R34) and of what stands behind its bus. -/
@[ext]
structure State where
  /-- accumulator (R20) -/
  a : Byte
  /-- index X (R20) -/
  x : Byte
  /-- index Y (R20) -/
  y : Byte
  /-- stack pointer (R20, R22) -/
  sp : Byte
  /-- program counter (R20, R23) -/
  pc : Word
  /-- flags (R25) -/
  p : Flags
  /-- set by WAI (R31) -/
  suspended : Bool
  /-- set by STP (R32) -/
  halted : Bool
  /-- level of the maskable request (R33) -/
  irqPending : Bool
  /-- edge-latched non-maskable request (R34) -/
  nmiPending : Bool
  /-- plain memory behind the bus (20_memory.md R51, R62) -/
  mem : Memory
  /-- the address ranges answered by devices (20_memory.md R52, R57; log 2): nothing changes it -/
  devices : List Window
  /-- the parameters (00_scope.md R7; log 5): nothing changes them -/
  params : Params
  /-- MODEL'S OWN (log 8): the host has called `reset`, which it owes before the first step (10_state.md R39) -/
  wasReset : Bool
  /-- MODEL'S OWN (log 1): the bus transactions made so far, newest first (20_memory.md R50) -/
  bus : List BusEvent
deriving DecidableEq, Repr

/-- The machine right after `reset(false)` (10_state.md R38, 70_reset_and_hazards.md R400) with nothing placed in
memory, so that the vector at 0xFFFC reads 0x0000 (log 4, log 7); the two vector reads stand on the bus.
DESIGN CHOICE: both request latches are false (log 6), no address is a device's (log 2), the parameters are the
spec's defaults (log 5). -/
def State.reset : State where
  a := 0x00
  x := 0x00
  y := 0x00
  sp := 0xFF
  pc := 0x0000
  p := { n := false, v := false, b := false, d := false, i := true, z := true, c := false }
  suspended := false
  halted := false
  irqPending := false
  nmiPending := false
  mem := []
  devices := []
  params := { undefPolicy := .nop1, zpPtrWrap := true }
  wasReset := true
  bus := [.read 0xFFFD 0x00, .read 0xFFFC 0x00]

/-- Why a step ends in a fault (00_scope.md R13, 60_exceptions.md R307). -/
inductive Fault where
  /-- Raised by an undefined opcode `op` fetched at `addr` under `UNDEF_OP_POLICY = FAULT`, as the spec says (safe);
  `final` is the state it leaves, which takes no further step (log 9). -/
  | undefinedOpcode (op : Byte) (addr : Word) (final : State)
deriving DecidableEq, Repr

/-- Why the model gives no next state. -/
inductive Refusal where
  /-- Raised by a step before the first reset, which the spec puts outside the model (10_state.md R39,
  70_reset_and_hazards.md R402, 93_implementation_defined.md part 1) (safe). -/
  | stepBeforeReset
  /-- Raised only by an arm of `exec` whose instruction has no meaning yet (safe); no arm is left so. -/
  | notModelled (mnemonic : String)
deriving DecidableEq, Repr

end Sys2Proof.Machine
end

