-- ==== Sys2Proof/Machine/Flags.lean ====
section
/-! DEFINITION. Every flag computation of the spec: SetNZ, the status byte, the ALU's adders, compare, bit test,
shifts and counts. -/

namespace Sys2Proof.Machine

/-- `SetNZ(v)` (00_scope.md R12). -/
def setNZ (v : Byte) (p : Flags) : Flags := { p with n := bit v 7, z := v == 0x00 }

/-- `PackP()` (10_state.md R28): bits 5 and 4 are 1 whatever the stored `B`. -/
def packP (p : Flags) : Byte :=
  BitVec.ofNat 8 (b2i p.n * 0x80 + b2i p.v * 0x40 + 0x20 + 0x10 + b2i p.d * 0x08 + b2i p.i * 0x04 +
    b2i p.z * 0x02 + b2i p.c * 0x01)

/-- `UnpackP(p)` (10_state.md R29): every flag takes its bit, bit 5 is discarded. -/
def unpackP (v : Byte) : Flags where
  n := bit v 7
  v := bit v 6
  b := bit v 4
  d := bit v 3
  i := bit v 2
  z := bit v 1
  c := bit v 0

/-- What an adder gives: the result byte and the new `C` and `V`. -/
structure AluOut where
  r : Byte
  c : Bool
  v : Bool
deriving DecidableEq, Repr

/-- The overflow test shared by the adders (41_arithmetic.md R121): `a` and `m` share bit 7 and `r` differs from it. -/
def overflow (a m r : Byte) : Bool := ((a ^^^ r) &&& (m ^^^ r) &&& 0x80) != 0x00

/-- `AdcBinary(a, m, c)` (41_arithmetic.md R121). -/
def adcBinary (a m : Byte) (c : Bool) : AluOut :=
  let s := a.toNat + m.toNat + b2i c
  let r := BitVec.ofNat 8 s
  { r := r, c := decide (s > 0xFF), v := overflow a m r }

/-- `AdcDecimal(a, m, c)` (41_arithmetic.md R122), applied to any bytes (D31). -/
def adcDecimal (a m : Byte) (c : Bool) : AluOut :=
  let lo := (a &&& 0x0F).toNat + (m &&& 0x0F).toNat + b2i c
  let lo := if lo > 0x09 then lo + 0x06 else lo
  let s := (a &&& 0xF0).toNat + (m &&& 0xF0).toNat + lo
  { r := BitVec.ofNat 8 (if s > 0x9F then s + 0x60 else s),
    c := decide (s > 0x9F),
    v := overflow a m (BitVec.ofNat 8 s) }

/-- `SbcBinary(a, m, c) = AdcBinary(a, ~m, c)` (41_arithmetic.md R123). -/
def sbcBinary (a m : Byte) (c : Bool) : AluOut := adcBinary a (~~~m) c

/-- `SbcDecimal(a, m, c)` (41_arithmetic.md R124), applied to any bytes (D31). -/
def sbcDecimal (a m : Byte) (c : Bool) : AluOut :=
  let lo : Int := (a &&& 0x0F).toNat - (m &&& 0x0F).toNat + b2i c - 1
  let t : Int := a.toNat - m.toNat + b2i c - 1
  let t1 := if t < 0 then t - 0x60 else t
  let t2 := if lo < 0 then t1 - 0x06 else t1
  { r := BitVec.ofInt 8 t2, c := decide (t ≥ 0), v := (adcBinary a (~~~m) c).v }

/-- The flags an add or subtract leaves (41_arithmetic.md R125, R126): `C`, `V` from the adder, `N`, `Z` from the result. -/
def aluFlags (o : AluOut) (p : Flags) : Flags := setNZ o.r { p with c := o.c, v := o.v }

/-- `Compare(reg, m)` (41_arithmetic.md R127). -/
def compareFlags (reg m : Byte) (p : Flags) : Flags := setNZ (reg - m) { p with c := decide (m.toNat ≤ reg.toNat) }

/-- `Z <- ((A & M) = 0)`: the flag of BIT, TRB and TSB (42_logic.md R143 to R145). -/
def testFlags (a m : Byte) (p : Flags) : Flags := { p with z := (a &&& m) == 0x00 }

/-- The flags of BIT in a form with an effective address: `N` and `V` are bits 7 and 6 of the operand (42_logic.md R143). -/
def bitFlags (a m : Byte) (p : Flags) : Flags := { testFlags a m p with n := bit m 7, v := bit m 6 }

/-- ASL (43_shift_incdec.md R161): the result and the flags. -/
def aslOp (m : Byte) (p : Flags) : Byte × Flags :=
  let r := BitVec.ofNat 8 (m.toNat * 2)
  (r, setNZ r { p with c := bit m 7 })

/-- LSR (43_shift_incdec.md R162). -/
def lsrOp (m : Byte) (p : Flags) : Byte × Flags :=
  let r := BitVec.ofNat 8 (m.toNat / 2)
  (r, setNZ r { p with c := bit m 0 })

/-- ROL (43_shift_incdec.md R163). -/
def rolOp (m : Byte) (p : Flags) : Byte × Flags :=
  let r := BitVec.ofNat 8 (m.toNat * 2 + b2i p.c)
  (r, setNZ r { p with c := bit m 7 })

/-- ROR (43_shift_incdec.md R164). -/
def rorOp (m : Byte) (p : Flags) : Byte × Flags :=
  let r := BitVec.ofNat 8 (m.toNat / 2 + b2i p.c * 0x80)
  (r, setNZ r { p with c := bit m 0 })

/-- INC and INX, INY (43_shift_incdec.md R165, R167, R168). -/
def incOp (m : Byte) (p : Flags) : Byte × Flags := (m + 1#8, setNZ (m + 1#8) p)

/-- DEC and DEX, DEY (43_shift_incdec.md R166, R169, R170). -/
def decOp (m : Byte) (p : Flags) : Byte × Flags := (m - 1#8, setNZ (m - 1#8) p)

end Sys2Proof.Machine
end

