-- ==== Sys2Proof/Machine/Memory.lean ====
section
/-! DEFINITION. Plain memory behind the bus (20_memory.md R51, R62): reading and writing one byte, and the canonical
form that makes equal memories equal lists. -/

namespace Sys2Proof.Machine

/-- What an address that is not listed reads as.  DESIGN CHOICE (log 4): the spec leaves the contents of memory to
the host; the vectors of 95_test_vectors.md take every byte not named as 0x00. -/
def Memory.unlisted : Byte := 0x00

/-- The byte at an address. -/
def Memory.get : Memory → Nat → Byte
  | [], _ => Memory.unlisted
  | (k, v) :: rest, addr => if k = addr then v else Memory.get rest addr

/-- The memory without an entry at an address. -/
def Memory.erase (m : Memory) (addr : Nat) : Memory := m.filter fun cell => cell.1 != addr

/-- An entry put in its place in the order of addresses. -/
def Memory.insert : Memory → Nat → Byte → Memory
  | [], addr, v => [(addr, v)]
  | (k, w) :: rest, addr, v =>
    if addr < k then (addr, v) :: (k, w) :: rest else (k, w) :: Memory.insert rest addr v

/-- The memory with one byte written; writing what an unlisted address reads as removes the entry. -/
def Memory.set (m : Memory) (addr : Nat) (v : Byte) : Memory :=
  if v = Memory.unlisted then Memory.erase m addr else Memory.insert (Memory.erase m addr) addr v

/-- The canonical form: addresses strictly rising and inside the 64K space (R51), no entry equal to what an unlisted
address reads as. -/
abbrev Memory.wf (m : Memory) : Prop :=
  m.Pairwise (fun c d => c.1 < d.1) ∧ ∀ c ∈ m, c.2 ≠ Memory.unlisted ∧ c.1 < 65536

/-- The byte plain memory holds at an address. -/
def peek (s : State) (addr : Word) : Byte := Memory.get s.mem addr.toNat

end Sys2Proof.Machine
end

