-- ==== Sys2Proof/Machine/Ops.lean ====
section
/-! DEFINITION. The named operations over the bus, the program counter and the stack, and taking an interrupt and
returning from one.  An operation that reads answers the value and the state after its transactions. -/

namespace Sys2Proof.Machine

/-- A device, not plain memory, answers this address (20_memory.md R59; log 2). -/
def isDevice (s : State) (addr : Word) : Bool :=
  s.devices.any fun w => decide (w.first ≤ addr ∧ addr ≤ w.last)

/-- The byte the bus supplies at this moment (20_memory.md R52, R62): plain memory's, or a device's free value (log 3). -/
def answer (s : State) (addr : Word) : Byte :=
  if isDevice s addr then Config.deviceByte s.bus addr else peek s addr

/-- `MemRead(addr, 1)` (00_scope.md R11): one read transaction. -/
def busRead (addr : Word) (s : State) : Byte × State :=
  (answer s addr, { s with bus := .read addr (answer s addr) :: s.bus })

/-- `MemWrite(addr, 1, v)` (00_scope.md R11): one write transaction; a device's address stores nothing in plain memory. -/
def busWrite (addr : Word) (v : Byte) (s : State) : State :=
  { s with
    mem := if isDevice s addr then s.mem else Memory.set s.mem addr.toNat v
    bus := .write addr v :: s.bus }

/-- `Fetch8()` (00_scope.md R11). -/
def fetch8 (s : State) : Byte × State :=
  let t := busRead s.pc s
  (t.1, { t.2 with pc := t.2.pc + 1#16 })

/-- `MemRead16(a)` (00_scope.md R11): low byte at `a`, then high byte at `a + 1` modulo 65536. -/
def memRead16 (addr : Word) (s : State) : Word × State :=
  let l := busRead addr s
  let h := busRead (addr + 1#16) l.2
  (mkWord h.1 l.1, h.2)

/-- Where the high byte of the zero-page pointer `ptr` is read (40_addressing_modes.md R101). -/
def zpPtrHigh (wrap : Bool) (ptr : Byte) : Word := if wrap then zext16 (ptr + 1#8) else zext16 ptr + 1#16

/-- `ZpRead16(p)` (40_addressing_modes.md R101). -/
def zpRead16 (ptr : Byte) (s : State) : Word × State :=
  let l := busRead (zext16 ptr) s
  let h := busRead (zpPtrHigh s.params.zpPtrWrap ptr) l.2
  (mkWord h.1 l.1, h.2)

/-- The address in the stack page that a stack pointer designates (10_state.md R22). -/
def stackAddr (sp : Byte) : Word := 0x0100 + zext16 sp

/-- `Push8(v)` (45_stack.md R200). -/
def push8 (v : Byte) (s : State) : State :=
  let t := busWrite (stackAddr s.sp) v s
  { t with sp := t.sp - 1#8 }

/-- `Pull8()` (45_stack.md R201). -/
def pull8 (s : State) : Byte × State :=
  let t := { s with sp := s.sp + 1#8 }
  busRead (stackAddr t.sp) t

/-- `Push16(w)` (45_stack.md R202): high byte first. -/
def push16 (w : Word) (s : State) : State := push8 (loByte w) (push8 (hiByte w) s)

/-- `Pull16()` (45_stack.md R202): low byte, then high byte. -/
def pull16 (s : State) : Word × State :=
  let l := pull8 s
  let h := pull8 l.2
  (mkWord h.1 l.1, h.2)

/-- `PushP()` (45_stack.md R203). -/
def pushP (s : State) : State := push8 (packP s.p) s

/-- `PullP()` (45_stack.md R203). -/
def pullP (s : State) : State :=
  let t := pull8 s
  { t.2 with p := unpackP t.1 }

/-- The vector addresses (20_memory.md R60). -/
def nmiVector : Word := 0xFFFA
def resetVector : Word := 0xFFFC
def irqVector : Word := 0xFFFE

/-- The first half of `InterruptEntry` (60_exceptions.md R304): PC and the packed status go on the stack, `D` is cleared
and `I` set. -/
def interruptSave (s : State) : State :=
  let s1 := { s with suspended := false }
  let s2 := pushP (push16 s1.pc s1)
  { s2 with p := { s2.p with d := false, i := true } }

/-- `InterruptEntry(vec)` (60_exceptions.md R304): TAKING AN INTERRUPT, the one operation of BRK, IRQ and NMI.  PC and the
status are saved, then PC is loaded from the vector. -/
def interruptEntry (vec : Word) (s : State) : State :=
  let t := memRead16 vec (interruptSave s)
  { t.2 with pc := t.1 }

/-- The return from an interrupt (46_control_flow.md R233, 60_exceptions.md R311): the status, then PC. -/
def interruptReturn (s : State) : State :=
  let t := pull16 (pullP s)
  { t.2 with pc := t.1 }

end Sys2Proof.Machine
end

