-- ==== Sys2Proof/Syntax.lean ====
section
/-! DEFINITION. The instructions: one constructor for each mnemonic of spec/opcode_table.json, with the operand
form and operand bytes of the row.  A row of the table is a constructor with a form: row 0x75 is
`.adc (.mem (.zpx zp))`.  The 76 rows UNDEF are `.undef op`, one for each byte `op` of 30_encoding.md R78. -/

namespace Sys2Proof

/-- The modes with a resolver (40_addressing_modes.md R100), with the operand bytes assembled as 30_encoding.md R75 says. -/
inductive Addr where
  /-- zero page, R105 -/
  | zp (b : Byte)
  /-- zero page indexed by X, R106 -/
  | zpx (b : Byte)
  /-- zero page indexed by Y, R107 -/
  | zpy (b : Byte)
  /-- absolute, R108 -/
  | abs (w : Word)
  /-- absolute indexed by X, R109 -/
  | abx (w : Word)
  /-- absolute indexed by Y, R110 -/
  | aby (w : Word)
  /-- absolute indirect, R111 -/
  | ind (w : Word)
  /-- absolute-X indirect, R112 -/
  | iax (w : Word)
  /-- zero-page indirect, R113 -/
  | zpi (b : Byte)
  /-- zero-page-X indirect, R114 -/
  | zix (b : Byte)
  /-- zero-page indirect indexed by Y, R115 -/
  | ziy (b : Byte)
deriving DecidableEq, Repr

/-- The operand of a read-type operation (40_addressing_modes.md R118): the immediate byte or a byte of memory. -/
inductive Operand where
  /-- immediate, R104 -/
  | imm (b : Byte)
  | mem (m : Addr)
deriving DecidableEq, Repr

/-- The target of a read-modify-write operation (43_shift_incdec.md R160): the accumulator or a byte of memory. -/
inductive Target where
  /-- accumulator, 40_addressing_modes.md R103 -/
  | acc
  | mem (m : Addr)
deriving DecidableEq, Repr

/-- The instructions of 41_arithmetic.md to 47_system.md. -/
inductive Instr where
  /-- add with carry, R125 -/
  | adc (o : Operand)
  /-- subtract with borrow, R126 -/
  | sbc (o : Operand)
  /-- compare accumulator, R128 -/
  | cmp (o : Operand)
  /-- compare X, R129 -/
  | cpx (o : Operand)
  /-- compare Y, R130 -/
  | cpy (o : Operand)
  /-- and, R140 -/
  | and (o : Operand)
  /-- inclusive or, R141 -/
  | ora (o : Operand)
  /-- exclusive or, R142 -/
  | eor (o : Operand)
  /-- bit test, R143 -/
  | bit (o : Operand)
  /-- test and reset bits, R144 -/
  | trb (m : Addr)
  /-- test and set bits, R145 -/
  | tsb (m : Addr)
  /-- arithmetic shift left, R161 -/
  | asl (t : Target)
  /-- logical shift right, R162 -/
  | lsr (t : Target)
  /-- rotate left, R163 -/
  | rol (t : Target)
  /-- rotate right, R164 -/
  | ror (t : Target)
  /-- increment, R165 -/
  | inc (t : Target)
  /-- decrement, R166 -/
  | dec (t : Target)
  /-- increment X, R167 -/
  | inx
  /-- increment Y, R168 -/
  | iny
  /-- decrement X, R169 -/
  | dex
  /-- decrement Y, R170 -/
  | dey
  /-- load A, R180 -/
  | lda (o : Operand)
  /-- load X, R181 -/
  | ldx (o : Operand)
  /-- load Y, R182 -/
  | ldy (o : Operand)
  /-- store A, R183 -/
  | sta (m : Addr)
  /-- store X, R184 -/
  | stx (m : Addr)
  /-- store Y, R185 -/
  | sty (m : Addr)
  /-- store zero, R186 -/
  | stz (m : Addr)
  /-- A to X, R187 -/
  | tax
  /-- A to Y, R188 -/
  | tay
  /-- X to A, R189 -/
  | txa
  /-- Y to A, R190 -/
  | tya
  /-- SP to X, R191 -/
  | tsx
  /-- X to SP, R192 -/
  | txs
  /-- push A, R204 -/
  | pha
  /-- push the status, R205 -/
  | php
  /-- push X, R206 -/
  | phx
  /-- push Y, R207 -/
  | phy
  /-- pull A, R208 -/
  | pla
  /-- pull the status, R209 -/
  | plp
  /-- pull X, R210 -/
  | plx
  /-- pull Y, R211 -/
  | ply
  /-- branch if carry clear, R221 -/
  | bcc (rel : Byte)
  /-- branch if carry set, R222 -/
  | bcs (rel : Byte)
  /-- branch if equal, R223 -/
  | beq (rel : Byte)
  /-- branch if not equal, R224 -/
  | bne (rel : Byte)
  /-- branch if minus, R225 -/
  | bmi (rel : Byte)
  /-- branch if plus, R226 -/
  | bpl (rel : Byte)
  /-- branch if overflow clear, R227 -/
  | bvc (rel : Byte)
  /-- branch if overflow set, R228 -/
  | bvs (rel : Byte)
  /-- branch always, R229 -/
  | bra (rel : Byte)
  /-- jump, R230 -/
  | jmp (m : Addr)
  /-- jump to subroutine, R231 -/
  | jsr (w : Word)
  /-- return from subroutine, R232 -/
  | rts
  /-- return from interrupt, R233 -/
  | rti
  /-- software interrupt, R240; the signature byte is never read and stands in no instruction (log 11) -/
  | brk
  /-- wait for interrupt, R241 -/
  | wai
  /-- stop, R242 -/
  | stp
  /-- no operation, R243 -/
  | nop
  /-- clear carry, R244 -/
  | clc
  /-- set carry, R245 -/
  | sec
  /-- clear IRQ-disable, R246 -/
  | cli
  /-- set IRQ-disable, R247 -/
  | sei
  /-- clear decimal, R248 -/
  | cld
  /-- set decimal, R249 -/
  | sed
  /-- clear overflow, R250 -/
  | clv
  /-- undefined opcode `op`, R251 -/
  | undef (op : Byte)
deriving DecidableEq, Repr

end Sys2Proof
end

