-- ==== Sys2Proof/Machine/Operands.lean ====
section
/-! DEFINITION. The addressing-mode resolvers (40_addressing_modes.md) and the operand forms of the instructions.
The operand bytes have been fetched with the instruction (`fetchInstr`); a resolver makes the pointer reads. -/

namespace Sys2Proof.Machine

/-- The resolvers R105 to R115: the effective address, and the state after the pointer reads. -/
def resolve : Addr → State → Word × State
  | .zp b, s => (zext16 b, s)
  | .zpx b, s => (zext16 (b + s.x), s)
  | .zpy b, s => (zext16 (b + s.y), s)
  | .abs w, s => (w, s)
  | .abx w, s => (w + zext16 s.x, s)
  | .aby w, s => (w + zext16 s.y, s)
  | .ind w, s => memRead16 w s
  | .iax w, s => memRead16 (w + zext16 s.x) s
  | .zpi b, s => zpRead16 b s
  | .zix b, s => zpRead16 (b + s.x) s
  | .ziy b, s =>
    let t := zpRead16 b s
    (t.1 + zext16 s.y, t.2)

/-- `M <- Operand()` (R118): the immediate byte, or one read of the effective address. -/
def readOperand : Operand → State → Byte × State
  | .imm b, s => (b, s)
  | .mem m, s =>
    let e := resolve m s
    busRead e.1 e.2

/-- A write-type operation (R118): one write of the effective address and no read of it. -/
def storeAt (m : Addr) (v : Byte) (s : State) : State :=
  let e := resolve m s
  busWrite e.1 v e.2

/-- A read-modify-write operation (43_shift_incdec.md R160) by `f`, which gives the new byte and flags: on `A` with no
transaction, or one read and then one write of the effective address. -/
def modifyTarget (f : Byte → Flags → Byte × Flags) : Target → State → State
  | .acc, s =>
    let r := f s.a s.p
    { s with a := r.1, p := r.2 }
  | .mem m, s =>
    let e := resolve m s
    let t := busRead e.1 e.2
    let r := f t.1 t.2.p
    { busWrite e.1 r.1 t.2 with p := r.2 }

/-- `Branch(cond)` (46_control_flow.md R220) with the offset byte fetched, so that PC is the next instruction's address. -/
def branch (cond : Bool) (rel : Byte) (s : State) : State :=
  if cond then { s with pc := s.pc + sext16 rel } else s

end Sys2Proof.Machine
end

