-- ==== Sys2Proof/Machine/Arithmetic.lean ====
section
/-! DEFINITION. The meanings of 41_arithmetic.md: add, subtract, compare. -/

namespace Sys2Proof.Machine

/-- `M <- Operand()`, then an adder's result into `A` with its flags (41_arithmetic.md R125, R126); the adder depends on `D`. -/
def addLike (f : Bool → Byte → Byte → Bool → AluOut) (o : Operand) (s : State) : State :=
  let t := readOperand o s
  let out := f t.2.p.d t.2.a t.1 t.2.p.c
  { t.2 with a := out.r, p := aluFlags out t.2.p }

/-- `M <- Operand(); Compare(reg, M)` (41_arithmetic.md R127 to R130). -/
def compareWith (reg : State → Byte) (o : Operand) (s : State) : State :=
  let t := readOperand o s
  { t.2 with p := compareFlags (reg t.2) t.1 t.2.p }

/-- ADC: add with carry (41_arithmetic.md R125). -/
def execAdc (o : Operand) (s : State) : Host.Outcome State Fault Refusal :=
  .next (addLike (fun d a m c => if d then adcDecimal a m c else adcBinary a m c) o s)

/-- SBC: subtract with borrow (41_arithmetic.md R126). -/
def execSbc (o : Operand) (s : State) : Host.Outcome State Fault Refusal :=
  .next (addLike (fun d a m c => if d then sbcDecimal a m c else sbcBinary a m c) o s)

/-- CMP: compare accumulator (41_arithmetic.md R128). -/
def execCmp (o : Operand) (s : State) : Host.Outcome State Fault Refusal :=
  .next (compareWith (·.a) o s)

/-- CPX: compare X (41_arithmetic.md R129). -/
def execCpx (o : Operand) (s : State) : Host.Outcome State Fault Refusal :=
  .next (compareWith (·.x) o s)

/-- CPY: compare Y (41_arithmetic.md R130). -/
def execCpy (o : Operand) (s : State) : Host.Outcome State Fault Refusal :=
  .next (compareWith (·.y) o s)

end Sys2Proof.Machine
end

