-- ==== Sys2Proof/Machine/Control.lean ====
section
/-! DEFINITION. The meanings of 46_control_flow.md: branches, jumps, subroutines, return from interrupt. -/

namespace Sys2Proof.Machine

/-- BCC: branch if carry clear (46_control_flow.md R221). -/
def execBcc (rel : Byte) (s : State) : Host.Outcome State Fault Refusal :=
  .next (branch (!s.p.c) rel s)

/-- BCS: branch if carry set (46_control_flow.md R222). -/
def execBcs (rel : Byte) (s : State) : Host.Outcome State Fault Refusal :=
  .next (branch s.p.c rel s)

/-- BEQ: branch if equal (46_control_flow.md R223). -/
def execBeq (rel : Byte) (s : State) : Host.Outcome State Fault Refusal :=
  .next (branch s.p.z rel s)

/-- BNE: branch if not equal (46_control_flow.md R224). -/
def execBne (rel : Byte) (s : State) : Host.Outcome State Fault Refusal :=
  .next (branch (!s.p.z) rel s)

/-- BMI: branch if minus (46_control_flow.md R225). -/
def execBmi (rel : Byte) (s : State) : Host.Outcome State Fault Refusal :=
  .next (branch s.p.n rel s)

/-- BPL: branch if plus (46_control_flow.md R226). -/
def execBpl (rel : Byte) (s : State) : Host.Outcome State Fault Refusal :=
  .next (branch (!s.p.n) rel s)

/-- BVC: branch if overflow clear (46_control_flow.md R227). -/
def execBvc (rel : Byte) (s : State) : Host.Outcome State Fault Refusal :=
  .next (branch (!s.p.v) rel s)

/-- BVS: branch if overflow set (46_control_flow.md R228). -/
def execBvs (rel : Byte) (s : State) : Host.Outcome State Fault Refusal :=
  .next (branch s.p.v rel s)

/-- BRA: branch always (46_control_flow.md R229). -/
def execBra (rel : Byte) (s : State) : Host.Outcome State Fault Refusal :=
  .next (branch true rel s)

/-- JMP: jump to the effective address, with no access to it (46_control_flow.md R230). -/
def execJmp (m : Addr) (s : State) : Host.Outcome State Fault Refusal :=
  let e := resolve m s
  .next { e.2 with pc := e.1 }

/-- JSR: jump to subroutine; PC is the next instruction's address, so PC - 1 is JSR's last byte (46_control_flow.md R231). -/
def execJsr (w : Word) (s : State) : Host.Outcome State Fault Refusal :=
  .next { push16 (s.pc - 1#16) s with pc := w }

/-- RTS: return from subroutine (46_control_flow.md R232). -/
def execRts (s : State) : Host.Outcome State Fault Refusal :=
  let t := pull16 s
  .next { t.2 with pc := t.1 + 1#16 }

/-- RTI: return from interrupt (46_control_flow.md R233). -/
def execRti (s : State) : Host.Outcome State Fault Refusal :=
  .next (interruptReturn s)

end Sys2Proof.Machine
end

