-- ==== Sys2Proof/Machine/LoadStore.lean ====
section
/-! DEFINITION. The meanings of 44_load_store_transfer.md: loads, stores, transfers. -/

namespace Sys2Proof.Machine

/-- LDA: load A (44_load_store_transfer.md R180). -/
def execLda (o : Operand) (s : State) : Host.Outcome State Fault Refusal :=
  let t := readOperand o s
  .next { t.2 with a := t.1, p := setNZ t.1 t.2.p }

/-- LDX: load X (44_load_store_transfer.md R181). -/
def execLdx (o : Operand) (s : State) : Host.Outcome State Fault Refusal :=
  let t := readOperand o s
  .next { t.2 with x := t.1, p := setNZ t.1 t.2.p }

/-- LDY: load Y (44_load_store_transfer.md R182). -/
def execLdy (o : Operand) (s : State) : Host.Outcome State Fault Refusal :=
  let t := readOperand o s
  .next { t.2 with y := t.1, p := setNZ t.1 t.2.p }

/-- STA: store A (44_load_store_transfer.md R183). -/
def execSta (m : Addr) (s : State) : Host.Outcome State Fault Refusal :=
  .next (storeAt m s.a s)

/-- STX: store X (44_load_store_transfer.md R184). -/
def execStx (m : Addr) (s : State) : Host.Outcome State Fault Refusal :=
  .next (storeAt m s.x s)

/-- STY: store Y (44_load_store_transfer.md R185). -/
def execSty (m : Addr) (s : State) : Host.Outcome State Fault Refusal :=
  .next (storeAt m s.y s)

/-- STZ: store zero (44_load_store_transfer.md R186). -/
def execStz (m : Addr) (s : State) : Host.Outcome State Fault Refusal :=
  .next (storeAt m 0x00 s)

/-- TAX: transfer A to X (44_load_store_transfer.md R187). -/
def execTax (s : State) : Host.Outcome State Fault Refusal :=
  .next { s with x := s.a, p := setNZ s.a s.p }

/-- TAY: transfer A to Y (44_load_store_transfer.md R188). -/
def execTay (s : State) : Host.Outcome State Fault Refusal :=
  .next { s with y := s.a, p := setNZ s.a s.p }

/-- TXA: transfer X to A (44_load_store_transfer.md R189). -/
def execTxa (s : State) : Host.Outcome State Fault Refusal :=
  .next { s with a := s.x, p := setNZ s.x s.p }

/-- TYA: transfer Y to A (44_load_store_transfer.md R190). -/
def execTya (s : State) : Host.Outcome State Fault Refusal :=
  .next { s with a := s.y, p := setNZ s.y s.p }

/-- TSX: transfer SP to X (44_load_store_transfer.md R191). -/
def execTsx (s : State) : Host.Outcome State Fault Refusal :=
  .next { s with x := s.sp, p := setNZ s.sp s.p }

/-- TXS: transfer X to SP, no flag (44_load_store_transfer.md R192). -/
def execTxs (s : State) : Host.Outcome State Fault Refusal :=
  .next { s with sp := s.x }

end Sys2Proof.Machine
end

