-- ==== Sys2Proof/Machine/Logic.lean ====
section
/-! DEFINITION. The meanings of 42_logic.md: logic, bit test, test-and-set/reset. -/

namespace Sys2Proof.Machine

/-- `M <- Operand(); A <- f(A, M); SetNZ(A)` (42_logic.md R140 to R142). -/
def logicInto (f : Byte → Byte → Byte) (o : Operand) (s : State) : State :=
  let t := readOperand o s
  let r := f t.2.a t.1
  { t.2 with a := r, p := setNZ r t.2.p }

/-- Test the bits of `A` in a byte of memory, then write `f(A, M)` back, always (42_logic.md R144, R145). -/
def testAndWrite (f : Byte → Byte → Byte) (m : Addr) (s : State) : State :=
  let e := resolve m s
  let t := busRead e.1 e.2
  { busWrite e.1 (f t.2.a t.1) t.2 with p := testFlags t.2.a t.1 t.2.p }

/-- AND: bitwise and into A (42_logic.md R140). -/
def execAnd (o : Operand) (s : State) : Host.Outcome State Fault Refusal :=
  .next (logicInto (fun a m => a &&& m) o s)

/-- ORA: bitwise inclusive or into A (42_logic.md R141). -/
def execOra (o : Operand) (s : State) : Host.Outcome State Fault Refusal :=
  .next (logicInto (fun a m => a ||| m) o s)

/-- EOR: bitwise exclusive or into A (42_logic.md R142). -/
def execEor (o : Operand) (s : State) : Host.Outcome State Fault Refusal :=
  .next (logicInto (fun a m => a ^^^ m) o s)

/-- BIT: bit test (42_logic.md R143); the immediate form writes `Z` only. -/
def execBit (o : Operand) (s : State) : Host.Outcome State Fault Refusal :=
  match o with
  | .imm b => .next { s with p := testFlags s.a b s.p }
  | .mem m =>
    let t := readOperand (.mem m) s
    .next { t.2 with p := bitFlags t.2.a t.1 t.2.p }

/-- TRB: test and reset bits (42_logic.md R144). -/
def execTrb (m : Addr) (s : State) : Host.Outcome State Fault Refusal :=
  .next (testAndWrite (fun a v => v &&& ~~~a) m s)

/-- TSB: test and set bits (42_logic.md R145). -/
def execTsb (m : Addr) (s : State) : Host.Outcome State Fault Refusal :=
  .next (testAndWrite (fun a v => v ||| a) m s)

end Sys2Proof.Machine
end

