-- ==== Sys2Proof/Machine/Shift.lean ====
section
/-! DEFINITION. The meanings of 43_shift_incdec.md: shifts, rotates, increment, decrement. -/

namespace Sys2Proof.Machine

/-- ASL: arithmetic shift left (43_shift_incdec.md R161). -/
def execAsl (t : Target) (s : State) : Host.Outcome State Fault Refusal :=
  .next (modifyTarget aslOp t s)

/-- LSR: logical shift right (43_shift_incdec.md R162). -/
def execLsr (t : Target) (s : State) : Host.Outcome State Fault Refusal :=
  .next (modifyTarget lsrOp t s)

/-- ROL: rotate left through carry (43_shift_incdec.md R163). -/
def execRol (t : Target) (s : State) : Host.Outcome State Fault Refusal :=
  .next (modifyTarget rolOp t s)

/-- ROR: rotate right through carry (43_shift_incdec.md R164). -/
def execRor (t : Target) (s : State) : Host.Outcome State Fault Refusal :=
  .next (modifyTarget rorOp t s)

/-- INC: increment A or memory (43_shift_incdec.md R165). -/
def execInc (t : Target) (s : State) : Host.Outcome State Fault Refusal :=
  .next (modifyTarget incOp t s)

/-- DEC: decrement A or memory (43_shift_incdec.md R166). -/
def execDec (t : Target) (s : State) : Host.Outcome State Fault Refusal :=
  .next (modifyTarget decOp t s)

/-- INX: increment X (43_shift_incdec.md R167). -/
def execInx (s : State) : Host.Outcome State Fault Refusal :=
  let r := incOp s.x s.p
  .next { s with x := r.1, p := r.2 }

/-- INY: increment Y (43_shift_incdec.md R168). -/
def execIny (s : State) : Host.Outcome State Fault Refusal :=
  let r := incOp s.y s.p
  .next { s with y := r.1, p := r.2 }

/-- DEX: decrement X (43_shift_incdec.md R169). -/
def execDex (s : State) : Host.Outcome State Fault Refusal :=
  let r := decOp s.x s.p
  .next { s with x := r.1, p := r.2 }

/-- DEY: decrement Y (43_shift_incdec.md R170). -/
def execDey (s : State) : Host.Outcome State Fault Refusal :=
  let r := decOp s.y s.p
  .next { s with y := r.1, p := r.2 }

end Sys2Proof.Machine
end

