-- ==== Sys2Proof/Machine/Stack.lean ====
section
/-! DEFINITION. The meanings of 45_stack.md: push and pull instructions. -/

namespace Sys2Proof.Machine

/-- PHA: push A (45_stack.md R204). -/
def execPha (s : State) : Host.Outcome State Fault Refusal :=
  .next (push8 s.a s)

/-- PHP: push the status (45_stack.md R205). -/
def execPhp (s : State) : Host.Outcome State Fault Refusal :=
  .next (pushP s)

/-- PHX: push X (45_stack.md R206). -/
def execPhx (s : State) : Host.Outcome State Fault Refusal :=
  .next (push8 s.x s)

/-- PHY: push Y (45_stack.md R207). -/
def execPhy (s : State) : Host.Outcome State Fault Refusal :=
  .next (push8 s.y s)

/-- PLA: pull A (45_stack.md R208). -/
def execPla (s : State) : Host.Outcome State Fault Refusal :=
  let t := pull8 s
  .next { t.2 with a := t.1, p := setNZ t.1 t.2.p }

/-- PLP: pull the status (45_stack.md R209). -/
def execPlp (s : State) : Host.Outcome State Fault Refusal :=
  .next (pullP s)

/-- PLX: pull X (45_stack.md R210). -/
def execPlx (s : State) : Host.Outcome State Fault Refusal :=
  let t := pull8 s
  .next { t.2 with x := t.1, p := setNZ t.1 t.2.p }

/-- PLY: pull Y (45_stack.md R211). -/
def execPly (s : State) : Host.Outcome State Fault Refusal :=
  let t := pull8 s
  .next { t.2 with y := t.1, p := setNZ t.1 t.2.p }

end Sys2Proof.Machine
end

