-- ==== Sys2Proof/Machine/System.lean ====
section
/-! DEFINITION. The meanings of 47_system.md: software interrupt, power states, flag instructions, undefined opcodes. -/

namespace Sys2Proof.Machine

/-- BRK: software interrupt (47_system.md R240).  PC is the address of the signature byte, which is skipped and not read. -/
def execBrk (s : State) : Host.Outcome State Fault Refusal :=
  .next (interruptEntry irqVector { s with pc := s.pc + 1#16, p := { s.p with b := true } })

/-- WAI: wait for interrupt (47_system.md R241). -/
def execWai (s : State) : Host.Outcome State Fault Refusal :=
  .next { s with suspended := true }

/-- STP: stop (47_system.md R242). -/
def execStp (s : State) : Host.Outcome State Fault Refusal :=
  .next { s with halted := true }

/-- NOP: no operation; the fetch has advanced PC (47_system.md R243). -/
def execNop (s : State) : Host.Outcome State Fault Refusal :=
  .next s

/-- CLC: clear carry (47_system.md R244). -/
def execClc (s : State) : Host.Outcome State Fault Refusal :=
  .next { s with p := { s.p with c := false } }

/-- SEC: set carry (47_system.md R245). -/
def execSec (s : State) : Host.Outcome State Fault Refusal :=
  .next { s with p := { s.p with c := true } }

/-- CLI: clear IRQ-disable (47_system.md R246). -/
def execCli (s : State) : Host.Outcome State Fault Refusal :=
  .next { s with p := { s.p with i := false } }

/-- SEI: set IRQ-disable (47_system.md R247). -/
def execSei (s : State) : Host.Outcome State Fault Refusal :=
  .next { s with p := { s.p with i := true } }

/-- CLD: clear decimal (47_system.md R248). -/
def execCld (s : State) : Host.Outcome State Fault Refusal :=
  .next { s with p := { s.p with d := false } }

/-- SED: set decimal (47_system.md R249). -/
def execSed (s : State) : Host.Outcome State Fault Refusal :=
  .next { s with p := { s.p with d := true } }

/-- CLV: clear overflow (47_system.md R250). -/
def execClv (s : State) : Host.Outcome State Fault Refusal :=
  .next { s with p := { s.p with v := false } }

/-- An undefined opcode (47_system.md R251, 60_exceptions.md R307): PC is one past its address. -/
def execUndef (op : Byte) (s : State) : Host.Outcome State Fault Refusal :=
  match s.params.undefPolicy with
  | .nop1 => .next s
  | .fault => .fault (.undefinedOpcode op (s.pc - 1#16) s)

end Sys2Proof.Machine
end

