-- ==== Sys2Proof/WellFormed.lean ====
section
/-! DEFINITION. Which operand forms the opcode table gives each instruction (the "Opcodes" line of each rule of
41_arithmetic.md to 46_control_flow.md), and which bytes are undefined opcodes (30_encoding.md R78). -/

namespace Sys2Proof

/-- The names of the addressing modes an instruction word can be in (40_addressing_modes.md R100). -/
inductive Mode where
  | imp | acc | imm | zp | zpx | zpy | abs | abx | aby | ind | iax | zpi | zix | ziy | rel
deriving DecidableEq, Repr

def Addr.mode : Addr → Mode
  | .zp _ => .zp
  | .zpx _ => .zpx
  | .zpy _ => .zpy
  | .abs _ => .abs
  | .abx _ => .abx
  | .aby _ => .aby
  | .ind _ => .ind
  | .iax _ => .iax
  | .zpi _ => .zpi
  | .zix _ => .zix
  | .ziy _ => .ziy

def Operand.mode : Operand → Mode
  | .imm _ => .imm
  | .mem m => m.mode

def Target.mode : Target → Mode
  | .acc => .acc
  | .mem m => m.mode

/-- The forms of ADC, SBC, CMP, AND, ORA, EOR, LDA (R125, R126, R128, R140 to R142, R180). -/
def aluModes : List Mode := [.imm, .zp, .zpx, .abs, .abx, .aby, .zix, .ziy, .zpi]

/-- The forms of STA (R183): those of `aluModes` without the immediate one. -/
def staModes : List Mode := [.zp, .zpx, .abs, .abx, .aby, .zix, .ziy, .zpi]

/-- The forms of ASL, LSR, ROL, ROR, INC, DEC (R161 to R166). -/
def rmwModes : List Mode := [.acc, .zp, .zpx, .abs, .abx]

/-- The 76 undefined opcodes, in the order of 30_encoding.md R78. -/
def undefinedOpcodes : List Byte :=
  [0x02, 0x03, 0x07, 0x0B, 0x0F, 0x13, 0x17, 0x1B, 0x1F, 0x22, 0x23, 0x27, 0x2B, 0x2F, 0x33, 0x37, 0x3B, 0x3F] ++
  [0x42, 0x43, 0x44, 0x47, 0x4B, 0x4F, 0x53, 0x54, 0x57, 0x5B, 0x5C, 0x5F, 0x62, 0x63, 0x67, 0x6B, 0x6F, 0x73] ++
  [0x77, 0x7B, 0x7F, 0x82, 0x83, 0x87, 0x8B, 0x8F, 0x93, 0x97, 0x9B, 0x9F, 0xA3, 0xA7, 0xAB, 0xAF, 0xB3, 0xB7] ++
  [0xBB, 0xBF, 0xC2, 0xC3, 0xC7, 0xCF, 0xD3, 0xD4, 0xD7, 0xDC, 0xDF, 0xE2, 0xE3, 0xE7, 0xEB, 0xEF, 0xF3, 0xF4] ++
  [0xF7, 0xFB, 0xFC, 0xFF]

/-- The instruction has a row in the opcode table: its form is one the table gives its mnemonic. -/
def Instr.wf : Instr → Bool
  | .adc o | .sbc o | .cmp o | .and o | .ora o | .eor o | .lda o => aluModes.contains o.mode
  | .cpx o | .cpy o => [Mode.imm, .zp, .abs].contains o.mode
  | .bit o => [Mode.imm, .zp, .zpx, .abs, .abx].contains o.mode
  | .trb m | .tsb m => [Mode.zp, .abs].contains m.mode
  | .asl t | .lsr t | .rol t | .ror t | .inc t | .dec t => rmwModes.contains t.mode
  | .ldx o => [Mode.imm, .zp, .zpy, .abs, .aby].contains o.mode
  | .ldy o => [Mode.imm, .zp, .zpx, .abs, .abx].contains o.mode
  | .sta m => staModes.contains m.mode
  | .stx m => [Mode.zp, .zpy, .abs].contains m.mode
  | .sty m => [Mode.zp, .zpx, .abs].contains m.mode
  | .stz m => [Mode.zp, .zpx, .abs, .abx].contains m.mode
  | .jmp m => [Mode.abs, .ind, .iax].contains m.mode
  | .undef op => undefinedOpcodes.contains op
  | .inx | .iny | .dex | .dey | .tax | .tay | .txa | .tya | .tsx | .txs => true
  | .pha | .php | .phx | .phy | .pla | .plp | .plx | .ply => true
  | .bcc _ | .bcs _ | .beq _ | .bne _ | .bmi _ | .bpl _ | .bvc _ | .bvs _ | .bra _ => true
  | .jsr _ | .rts | .rti | .brk | .wai | .stp | .nop | .clc | .sec | .cli | .sei | .cld | .sed | .clv => true

end Sys2Proof
end

