-- ==== Sys2Proof/Decode.lean ====
section
/-! DEFINITION. Decoding and encoding (30_encoding.md).  Decoding is a lookup of the whole opcode byte in a
256-entry table (R74, R76), written as the sixteen rows of R76; the encoder is written from the "Opcodes" line of
each instruction's rule.  Decoding is total on byte lists and rejects by name only a list that ends too early. -/

namespace Sys2Proof

/-- A row of the opcode table: its format (R71 to R73) and the instruction its operand bytes make. -/
inductive Entry where
  /-- format `OP`: one byte -/
  | op (i : Instr)
  /-- format `OP_B8` whose second byte is a signature that no one reads (BRK, 47_system.md R240) -/
  | sig (i : Instr)
  /-- format `OP_B8`: an operand byte -/
  | b8 (f : Byte → Instr)
  /-- format `OP_W16`: a 16-bit operand, low byte first -/
  | w16 (f : Word → Instr)
  /-- an undefined opcode, one byte (R78) -/
  | undef

/-- Row 0x of 30_encoding.md R76. -/
def opcodeRow0 : List Entry :=
  [.sig .brk, .b8 (.ora ∘ .mem ∘ .zix), .undef, .undef,
   .b8 (.tsb ∘ .zp), .b8 (.ora ∘ .mem ∘ .zp), .b8 (.asl ∘ .mem ∘ .zp), .undef,
   .op .php, .b8 (.ora ∘ .imm), .op (.asl .acc), .undef,
   .w16 (.tsb ∘ .abs), .w16 (.ora ∘ .mem ∘ .abs), .w16 (.asl ∘ .mem ∘ .abs), .undef]

/-- Row 1x of 30_encoding.md R76. -/
def opcodeRow1 : List Entry :=
  [.b8 .bpl, .b8 (.ora ∘ .mem ∘ .ziy), .b8 (.ora ∘ .mem ∘ .zpi), .undef,
   .b8 (.trb ∘ .zp), .b8 (.ora ∘ .mem ∘ .zpx), .b8 (.asl ∘ .mem ∘ .zpx), .undef,
   .op .clc, .w16 (.ora ∘ .mem ∘ .aby), .op (.inc .acc), .undef,
   .w16 (.trb ∘ .abs), .w16 (.ora ∘ .mem ∘ .abx), .w16 (.asl ∘ .mem ∘ .abx), .undef]

/-- Row 2x of 30_encoding.md R76. -/
def opcodeRow2 : List Entry :=
  [.w16 .jsr, .b8 (.and ∘ .mem ∘ .zix), .undef, .undef,
   .b8 (.bit ∘ .mem ∘ .zp), .b8 (.and ∘ .mem ∘ .zp), .b8 (.rol ∘ .mem ∘ .zp), .undef,
   .op .plp, .b8 (.and ∘ .imm), .op (.rol .acc), .undef,
   .w16 (.bit ∘ .mem ∘ .abs), .w16 (.and ∘ .mem ∘ .abs), .w16 (.rol ∘ .mem ∘ .abs), .undef]

/-- Row 3x of 30_encoding.md R76. -/
def opcodeRow3 : List Entry :=
  [.b8 .bmi, .b8 (.and ∘ .mem ∘ .ziy), .b8 (.and ∘ .mem ∘ .zpi), .undef,
   .b8 (.bit ∘ .mem ∘ .zpx), .b8 (.and ∘ .mem ∘ .zpx), .b8 (.rol ∘ .mem ∘ .zpx), .undef,
   .op .sec, .w16 (.and ∘ .mem ∘ .aby), .op (.dec .acc), .undef,
   .w16 (.bit ∘ .mem ∘ .abx), .w16 (.and ∘ .mem ∘ .abx), .w16 (.rol ∘ .mem ∘ .abx), .undef]

/-- Row 4x of 30_encoding.md R76. -/
def opcodeRow4 : List Entry :=
  [.op .rti, .b8 (.eor ∘ .mem ∘ .zix), .undef, .undef,
   .undef, .b8 (.eor ∘ .mem ∘ .zp), .b8 (.lsr ∘ .mem ∘ .zp), .undef,
   .op .pha, .b8 (.eor ∘ .imm), .op (.lsr .acc), .undef,
   .w16 (.jmp ∘ .abs), .w16 (.eor ∘ .mem ∘ .abs), .w16 (.lsr ∘ .mem ∘ .abs), .undef]

/-- Row 5x of 30_encoding.md R76. -/
def opcodeRow5 : List Entry :=
  [.b8 .bvc, .b8 (.eor ∘ .mem ∘ .ziy), .b8 (.eor ∘ .mem ∘ .zpi), .undef,
   .undef, .b8 (.eor ∘ .mem ∘ .zpx), .b8 (.lsr ∘ .mem ∘ .zpx), .undef,
   .op .cli, .w16 (.eor ∘ .mem ∘ .aby), .op .phy, .undef,
   .undef, .w16 (.eor ∘ .mem ∘ .abx), .w16 (.lsr ∘ .mem ∘ .abx), .undef]

/-- Row 6x of 30_encoding.md R76. -/
def opcodeRow6 : List Entry :=
  [.op .rts, .b8 (.adc ∘ .mem ∘ .zix), .undef, .undef,
   .b8 (.stz ∘ .zp), .b8 (.adc ∘ .mem ∘ .zp), .b8 (.ror ∘ .mem ∘ .zp), .undef,
   .op .pla, .b8 (.adc ∘ .imm), .op (.ror .acc), .undef,
   .w16 (.jmp ∘ .ind), .w16 (.adc ∘ .mem ∘ .abs), .w16 (.ror ∘ .mem ∘ .abs), .undef]

/-- Row 7x of 30_encoding.md R76. -/
def opcodeRow7 : List Entry :=
  [.b8 .bvs, .b8 (.adc ∘ .mem ∘ .ziy), .b8 (.adc ∘ .mem ∘ .zpi), .undef,
   .b8 (.stz ∘ .zpx), .b8 (.adc ∘ .mem ∘ .zpx), .b8 (.ror ∘ .mem ∘ .zpx), .undef,
   .op .sei, .w16 (.adc ∘ .mem ∘ .aby), .op .ply, .undef,
   .w16 (.jmp ∘ .iax), .w16 (.adc ∘ .mem ∘ .abx), .w16 (.ror ∘ .mem ∘ .abx), .undef]

/-- Row 8x of 30_encoding.md R76. -/
def opcodeRow8 : List Entry :=
  [.b8 .bra, .b8 (.sta ∘ .zix), .undef, .undef,
   .b8 (.sty ∘ .zp), .b8 (.sta ∘ .zp), .b8 (.stx ∘ .zp), .undef,
   .op .dey, .b8 (.bit ∘ .imm), .op .txa, .undef,
   .w16 (.sty ∘ .abs), .w16 (.sta ∘ .abs), .w16 (.stx ∘ .abs), .undef]

/-- Row 9x of 30_encoding.md R76. -/
def opcodeRow9 : List Entry :=
  [.b8 .bcc, .b8 (.sta ∘ .ziy), .b8 (.sta ∘ .zpi), .undef,
   .b8 (.sty ∘ .zpx), .b8 (.sta ∘ .zpx), .b8 (.stx ∘ .zpy), .undef,
   .op .tya, .w16 (.sta ∘ .aby), .op .txs, .undef,
   .w16 (.stz ∘ .abs), .w16 (.sta ∘ .abx), .w16 (.stz ∘ .abx), .undef]

/-- Row Ax of 30_encoding.md R76. -/
def opcodeRowA : List Entry :=
  [.b8 (.ldy ∘ .imm), .b8 (.lda ∘ .mem ∘ .zix), .b8 (.ldx ∘ .imm), .undef,
   .b8 (.ldy ∘ .mem ∘ .zp), .b8 (.lda ∘ .mem ∘ .zp), .b8 (.ldx ∘ .mem ∘ .zp), .undef,
   .op .tay, .b8 (.lda ∘ .imm), .op .tax, .undef,
   .w16 (.ldy ∘ .mem ∘ .abs), .w16 (.lda ∘ .mem ∘ .abs), .w16 (.ldx ∘ .mem ∘ .abs), .undef]

/-- Row Bx of 30_encoding.md R76. -/
def opcodeRowB : List Entry :=
  [.b8 .bcs, .b8 (.lda ∘ .mem ∘ .ziy), .b8 (.lda ∘ .mem ∘ .zpi), .undef,
   .b8 (.ldy ∘ .mem ∘ .zpx), .b8 (.lda ∘ .mem ∘ .zpx), .b8 (.ldx ∘ .mem ∘ .zpy), .undef,
   .op .clv, .w16 (.lda ∘ .mem ∘ .aby), .op .tsx, .undef,
   .w16 (.ldy ∘ .mem ∘ .abx), .w16 (.lda ∘ .mem ∘ .abx), .w16 (.ldx ∘ .mem ∘ .aby), .undef]

/-- Row Cx of 30_encoding.md R76. -/
def opcodeRowC : List Entry :=
  [.b8 (.cpy ∘ .imm), .b8 (.cmp ∘ .mem ∘ .zix), .undef, .undef,
   .b8 (.cpy ∘ .mem ∘ .zp), .b8 (.cmp ∘ .mem ∘ .zp), .b8 (.dec ∘ .mem ∘ .zp), .undef,
   .op .iny, .b8 (.cmp ∘ .imm), .op .dex, .op .wai,
   .w16 (.cpy ∘ .mem ∘ .abs), .w16 (.cmp ∘ .mem ∘ .abs), .w16 (.dec ∘ .mem ∘ .abs), .undef]

/-- Row Dx of 30_encoding.md R76. -/
def opcodeRowD : List Entry :=
  [.b8 .bne, .b8 (.cmp ∘ .mem ∘ .ziy), .b8 (.cmp ∘ .mem ∘ .zpi), .undef,
   .undef, .b8 (.cmp ∘ .mem ∘ .zpx), .b8 (.dec ∘ .mem ∘ .zpx), .undef,
   .op .cld, .w16 (.cmp ∘ .mem ∘ .aby), .op .phx, .op .stp,
   .undef, .w16 (.cmp ∘ .mem ∘ .abx), .w16 (.dec ∘ .mem ∘ .abx), .undef]

/-- Row Ex of 30_encoding.md R76. -/
def opcodeRowE : List Entry :=
  [.b8 (.cpx ∘ .imm), .b8 (.sbc ∘ .mem ∘ .zix), .undef, .undef,
   .b8 (.cpx ∘ .mem ∘ .zp), .b8 (.sbc ∘ .mem ∘ .zp), .b8 (.inc ∘ .mem ∘ .zp), .undef,
   .op .inx, .b8 (.sbc ∘ .imm), .op .nop, .undef,
   .w16 (.cpx ∘ .mem ∘ .abs), .w16 (.sbc ∘ .mem ∘ .abs), .w16 (.inc ∘ .mem ∘ .abs), .undef]

/-- Row Fx of 30_encoding.md R76. -/
def opcodeRowF : List Entry :=
  [.b8 .beq, .b8 (.sbc ∘ .mem ∘ .ziy), .b8 (.sbc ∘ .mem ∘ .zpi), .undef,
   .undef, .b8 (.sbc ∘ .mem ∘ .zpx), .b8 (.inc ∘ .mem ∘ .zpx), .undef,
   .op .sed, .w16 (.sbc ∘ .mem ∘ .aby), .op .plx, .undef,
   .undef, .w16 (.sbc ∘ .mem ∘ .abx), .w16 (.inc ∘ .mem ∘ .abx), .undef]

/-- The opcode map of R76. -/
def opcodeTable : List Entry :=
  opcodeRow0 ++ opcodeRow1 ++ opcodeRow2 ++ opcodeRow3 ++ opcodeRow4 ++ opcodeRow5 ++ opcodeRow6 ++ opcodeRow7 ++
  opcodeRow8 ++ opcodeRow9 ++ opcodeRowA ++ opcodeRowB ++ opcodeRowC ++ opcodeRowD ++ opcodeRowE ++ opcodeRowF

/-- The row of an opcode byte (R74). -/
def entryOf (op : Byte) : Entry := opcodeTable.getD op.toNat .undef

/-- The descriptor's operand-byte count (R70): the instruction's length is one more. -/
def Entry.operandBytes : Entry → Nat
  | .op _ => 0
  | .sig _ => 1
  | .b8 _ => 1
  | .w16 _ => 2
  | .undef => 0

/-- `length = 1 + operand_bytes(descriptor)`, known from the opcode byte alone (R74). -/
def opcodeLength (op : Byte) : Nat := 1 + (entryOf op).operandBytes

/-- Why a byte list is no instruction. -/
inductive DecodeError where
  /-- the list is empty -/
  | noOpcode
  /-- the list ends before the last operand byte of the instruction with opcode `op` -/
  | truncated (op : Byte)
deriving DecidableEq, Repr

/-- The instruction that the row of opcode `op` makes of the bytes after the opcode, and the bytes left (R71 to R73, R75).
The signature byte of BRK is skipped whatever it is. -/
def buildInstr (op : Byte) : Entry → List Byte → Except DecodeError (Instr × List Byte)
  | .op i, rest => .ok (i, rest)
  | .undef, rest => .ok (.undef op, rest)
  | .sig i, _ :: rest => .ok (i, rest)
  | .b8 f, b :: rest => .ok (f b, rest)
  | .w16 f, l :: h :: rest => .ok (f (Machine.mkWord h l), rest)
  | .sig _, [] => .error (.truncated op)
  | .b8 _, [] => .error (.truncated op)
  | .w16 _, _ => .error (.truncated op)

/-- The instruction at the front of a byte list and the bytes after it (R70 to R76). -/
def decode : List Byte → Except DecodeError (Instr × List Byte)
  | [] => .error .noOpcode
  | op :: rest => buildInstr op (entryOf op) rest

/-- The operand bytes of a mode, low byte first (R75). -/
def Addr.bytes : Addr → List Byte
  | .zp b | .zpx b | .zpy b | .zpi b | .zix b | .ziy b => [b]
  | .abs w | .abx w | .aby w | .ind w | .iax w => [Machine.loByte w, Machine.hiByte w]

def Operand.bytes : Operand → List Byte
  | .imm b => [b]
  | .mem m => m.bytes

def Target.bytes : Target → List Byte
  | .acc => []
  | .mem m => m.bytes

/-- The opcode a rule lists for a mode, then the operand bytes; `none` for a mode it does not list. -/
def encodeForm (opcodes : List (Mode × Byte)) (mode : Mode) (operands : List Byte) : Option (List Byte) :=
  (opcodes.lookup mode).map (· :: operands)

open Machine (loByte hiByte) in
/-- The bytes of an instruction, `none` where the table has no row for its form.  The signature byte of BRK,
which the spec leaves to the program, is written as 0x00 (log 11). -/
def encode : Instr → Option (List Byte)
  | .adc o => encodeForm [(.imm, 0x69), (.zp, 0x65), (.zpx, 0x75), (.abs, 0x6D), (.abx, 0x7D), (.aby, 0x79), (.zix, 0x61), (.ziy, 0x71), (.zpi, 0x72)] o.mode o.bytes
  | .sbc o => encodeForm [(.imm, 0xE9), (.zp, 0xE5), (.zpx, 0xF5), (.abs, 0xED), (.abx, 0xFD), (.aby, 0xF9), (.zix, 0xE1), (.ziy, 0xF1), (.zpi, 0xF2)] o.mode o.bytes
  | .cmp o => encodeForm [(.imm, 0xC9), (.zp, 0xC5), (.zpx, 0xD5), (.abs, 0xCD), (.abx, 0xDD), (.aby, 0xD9), (.zix, 0xC1), (.ziy, 0xD1), (.zpi, 0xD2)] o.mode o.bytes
  | .cpx o => encodeForm [(.imm, 0xE0), (.zp, 0xE4), (.abs, 0xEC)] o.mode o.bytes
  | .cpy o => encodeForm [(.imm, 0xC0), (.zp, 0xC4), (.abs, 0xCC)] o.mode o.bytes
  | .and o => encodeForm [(.imm, 0x29), (.zp, 0x25), (.zpx, 0x35), (.abs, 0x2D), (.abx, 0x3D), (.aby, 0x39), (.zix, 0x21), (.ziy, 0x31), (.zpi, 0x32)] o.mode o.bytes
  | .ora o => encodeForm [(.imm, 0x09), (.zp, 0x05), (.zpx, 0x15), (.abs, 0x0D), (.abx, 0x1D), (.aby, 0x19), (.zix, 0x01), (.ziy, 0x11), (.zpi, 0x12)] o.mode o.bytes
  | .eor o => encodeForm [(.imm, 0x49), (.zp, 0x45), (.zpx, 0x55), (.abs, 0x4D), (.abx, 0x5D), (.aby, 0x59), (.zix, 0x41), (.ziy, 0x51), (.zpi, 0x52)] o.mode o.bytes
  | .bit o => encodeForm [(.imm, 0x89), (.zp, 0x24), (.zpx, 0x34), (.abs, 0x2C), (.abx, 0x3C)] o.mode o.bytes
  | .trb m => encodeForm [(.zp, 0x14), (.abs, 0x1C)] m.mode m.bytes
  | .tsb m => encodeForm [(.zp, 0x04), (.abs, 0x0C)] m.mode m.bytes
  | .asl t => encodeForm [(.acc, 0x0A), (.zp, 0x06), (.zpx, 0x16), (.abs, 0x0E), (.abx, 0x1E)] t.mode t.bytes
  | .lsr t => encodeForm [(.acc, 0x4A), (.zp, 0x46), (.zpx, 0x56), (.abs, 0x4E), (.abx, 0x5E)] t.mode t.bytes
  | .rol t => encodeForm [(.acc, 0x2A), (.zp, 0x26), (.zpx, 0x36), (.abs, 0x2E), (.abx, 0x3E)] t.mode t.bytes
  | .ror t => encodeForm [(.acc, 0x6A), (.zp, 0x66), (.zpx, 0x76), (.abs, 0x6E), (.abx, 0x7E)] t.mode t.bytes
  | .inc t => encodeForm [(.acc, 0x1A), (.zp, 0xE6), (.zpx, 0xF6), (.abs, 0xEE), (.abx, 0xFE)] t.mode t.bytes
  | .dec t => encodeForm [(.acc, 0x3A), (.zp, 0xC6), (.zpx, 0xD6), (.abs, 0xCE), (.abx, 0xDE)] t.mode t.bytes
  | .inx => some [0xE8]
  | .iny => some [0xC8]
  | .dex => some [0xCA]
  | .dey => some [0x88]
  | .lda o => encodeForm [(.imm, 0xA9), (.zp, 0xA5), (.zpx, 0xB5), (.abs, 0xAD), (.abx, 0xBD), (.aby, 0xB9), (.zix, 0xA1), (.ziy, 0xB1), (.zpi, 0xB2)] o.mode o.bytes
  | .ldx o => encodeForm [(.imm, 0xA2), (.zp, 0xA6), (.zpy, 0xB6), (.abs, 0xAE), (.aby, 0xBE)] o.mode o.bytes
  | .ldy o => encodeForm [(.imm, 0xA0), (.zp, 0xA4), (.zpx, 0xB4), (.abs, 0xAC), (.abx, 0xBC)] o.mode o.bytes
  | .sta m => encodeForm [(.zp, 0x85), (.zpx, 0x95), (.abs, 0x8D), (.abx, 0x9D), (.aby, 0x99), (.zix, 0x81), (.ziy, 0x91), (.zpi, 0x92)] m.mode m.bytes
  | .stx m => encodeForm [(.zp, 0x86), (.zpy, 0x96), (.abs, 0x8E)] m.mode m.bytes
  | .sty m => encodeForm [(.zp, 0x84), (.zpx, 0x94), (.abs, 0x8C)] m.mode m.bytes
  | .stz m => encodeForm [(.zp, 0x64), (.zpx, 0x74), (.abs, 0x9C), (.abx, 0x9E)] m.mode m.bytes
  | .tax => some [0xAA]
  | .tay => some [0xA8]
  | .txa => some [0x8A]
  | .tya => some [0x98]
  | .tsx => some [0xBA]
  | .txs => some [0x9A]
  | .pha => some [0x48]
  | .php => some [0x08]
  | .phx => some [0xDA]
  | .phy => some [0x5A]
  | .pla => some [0x68]
  | .plp => some [0x28]
  | .plx => some [0xFA]
  | .ply => some [0x7A]
  | .bcc rel => some [0x90, rel]
  | .bcs rel => some [0xB0, rel]
  | .beq rel => some [0xF0, rel]
  | .bne rel => some [0xD0, rel]
  | .bmi rel => some [0x30, rel]
  | .bpl rel => some [0x10, rel]
  | .bvc rel => some [0x50, rel]
  | .bvs rel => some [0x70, rel]
  | .bra rel => some [0x80, rel]
  | .jmp m => encodeForm [(.abs, 0x4C), (.ind, 0x6C), (.iax, 0x7C)] m.mode m.bytes
  | .jsr w => some [0x20, loByte w, hiByte w]
  | .rts => some [0x60]
  | .rti => some [0x40]
  | .brk => some [0x00, 0x00]
  | .wai => some [0xCB]
  | .stp => some [0xDB]
  | .nop => some [0xEA]
  | .clc => some [0x18]
  | .sec => some [0x38]
  | .cli => some [0x58]
  | .sei => some [0x78]
  | .cld => some [0xD8]
  | .sed => some [0xF8]
  | .clv => some [0xB8]
  | .undef op => if undefinedOpcodes.contains op then some [op] else none

/-- The number of bytes of an instruction (R70): one and its operand bytes; BRK has its signature byte. -/
def Instr.length : Instr → Nat
  | .adc o | .sbc o | .cmp o | .cpx o | .cpy o | .and o | .ora o | .eor o | .bit o => 1 + o.bytes.length
  | .lda o | .ldx o | .ldy o => 1 + o.bytes.length
  | .asl t | .lsr t | .rol t | .ror t | .inc t | .dec t => 1 + t.bytes.length
  | .trb m | .tsb m | .sta m | .stx m | .sty m | .stz m | .jmp m => 1 + m.bytes.length
  | .bcc _ | .bcs _ | .beq _ | .bne _ | .bmi _ | .bpl _ | .bvc _ | .bvs _ | .bra _ => 2
  | .jsr _ => 3
  | .brk => 2
  | .inx | .iny | .dex | .dey | .tax | .tay | .txa | .tya | .tsx | .txs => 1
  | .pha | .php | .phx | .phy | .pla | .plp | .plx | .ply => 1
  | .rts | .rti | .wai | .stp | .nop | .clc | .sec | .cli | .sei | .cld | .sed | .clv | .undef _ => 1

/-- The bytes of an instruction given as one number, bit 0 the least significant bit of the first byte, every bit
from `nbits` on being 0; three bytes, the longest instruction (R70). -/
def tableBytes (nbits w : Nat) : List Byte :=
  let v := w % 2 ^ nbits
  [BitVec.ofNat 8 v, BitVec.ofNat 8 (v >>> 8), BitVec.ofNat 8 (v >>> 16)]

/-- The instruction the decoder reads from a table word. -/
def decodeTableWord (nbits w : Nat) : Option Instr :=
  match decode (tableBytes nbits w) with
  | .ok (i, _) => some i
  | .error _ => none

end Sys2Proof
end

