-- ==== Sys2Proof/Machine/Fetch.lean ====
section
/-! DEFINITION. Fetching an instruction through the bus, and placing one in memory for the next fetch. -/

namespace Sys2Proof.Machine

/-- Fetch the opcode byte and the operand bytes its descriptor counts, one transaction each in order
(60_exceptions.md R300, 20_memory.md R56), PC advancing past every byte read.  BRK's signature byte is not read
(47_system.md R240). -/
def fetchInstr (s : State) : Instr × State :=
  let o := fetch8 s
  match entryOf o.1 with
  | .op i => (i, o.2)
  | .sig i => (i, o.2)
  | .undef => (.undef o.1, o.2)
  | .b8 f =>
    let b := fetch8 o.2
    (f b.1, b.2)
  | .w16 f =>
    let l := fetch8 o.2
    let h := fetch8 l.2
    (f (mkWord h.1 l.1), h.2)

/-- Memory with bytes placed from an address on, modulo 65536; no transaction of the core. -/
def placeBytes : List Byte → Word → Memory → Memory
  | [], _, m => m
  | b :: rest, addr, m => placeBytes rest (addr + 1#16) (Memory.set m addr.toNat b)

/-- The window holds one of the three addresses from `addr` on. -/
def windowMeets (addr : Word) (w : Window) : Bool :=
  [addr, addr + 1#16, addr + 2#16].any fun a => decide (w.first ≤ a ∧ a ≤ w.last)

/-- The state with bytes placed at PC in plain memory, after a reset and Running, so that the next step fetches them
(log 10). -/
def placeAtPc (bytes : List Byte) (s : State) : State :=
  { s with
    mem := placeBytes bytes s.pc s.mem
    devices := s.devices.filter fun w => !windowMeets s.pc w
    suspended := false
    halted := false
    wasReset := true }

end Sys2Proof.Machine
end

