-- ==== Sys2Proof/Machine/Interrupt.lean ====
section
/-! DEFINITION. The instruction boundary (60_exceptions.md R302): resolving pending interrupts, at most one. -/

namespace Sys2Proof.Machine

/-- `Boundary()` (60_exceptions.md R302 to R306): NMI before IRQ; the NMI latch is consumed, the IRQ level is not. -/
def boundary (s : State) : State :=
  if s.nmiPending then interruptEntry nmiVector { s with nmiPending := false }
  else if s.irqPending && !s.p.i then interruptEntry irqVector s
  else s

/-- The end of a step: the boundary follows an instruction that ended normally, and is not evaluated after a fault
(60_exceptions.md R300, R302, R307). -/
def finishStep : Host.Outcome State Fault Refusal → Host.Outcome State Fault Refusal
  | .next s => .next (boundary s)
  | .fault r => .fault r
  | .refused r => .refused r

end Sys2Proof.Machine
end

