-- ==== Sys2Proof/Machine/Step.lean ====
section
/-! DEFINITION. One step of the core (60_exceptions.md R300). -/

namespace Sys2Proof.Machine

/-- `Step()`: nothing while Halted; only the boundary while Suspended; else one instruction and then the boundary.  Before the
first reset there is no step (70_reset_and_hazards.md R402). -/
def step (s : State) : Host.Outcome State Fault Refusal :=
  if !s.wasReset then .refused .stepBeforeReset
  else if s.halted then .next s
  else if s.suspended then .next (boundary s)
  else
    let f := fetchInstr s
    finishStep (exec f.1 f.2)

/-- The state with one instruction of the opcode table stored where the next step fetches it (log 10). -/
def State.withFetchWord (s : State) (nbits w : Nat) : State := placeAtPc (tableBytes nbits w) s

end Sys2Proof.Machine
end

