-- ==== Sys2Proof/Machine/Inputs.lean ====
section
/-! DEFINITION. The host's inputs (60_exceptions.md R313 to R317, 70_reset_and_hazards.md R400): each an atomic transition
between steps (20_memory.md R67; log 12), and the state before the first reset (10_state.md R39). -/

namespace Sys2Proof.Machine

/-- `raiseIRQ()` (60_exceptions.md R313). -/
def raiseIRQ (s : State) : State := { s with irqPending := true }

/-- `lowerIRQ()` (60_exceptions.md R314). -/
def lowerIRQ (s : State) : State := { s with irqPending := false }

/-- `raiseNMI()` (60_exceptions.md R315). -/
def raiseNMI (s : State) : State := { s with nmiPending := true }

/-- `setOverflow()` (60_exceptions.md R316). -/
def setOverflow (s : State) : State := { s with p := { s.p with v := true } }

/-- `reset(faithful)` (70_reset_and_hazards.md R400). -/
def hostReset (faithful : Bool) (s : State) : State :=
  let s1 :=
    if faithful then s
    else { s with
      a := 0x00
      x := 0x00
      y := 0x00
      sp := 0xFF
      p := { s.p with n := false, v := false, b := false, z := true, c := false } }
  let s2 := { s1 with p := { s1.p with d := false, i := true }, halted := false, suspended := false, wasReset := true }
  let t := memRead16 resetVector s2
  { t.2 with pc := t.1 }

/-- The six inputs of the host (60_exceptions.md R317). -/
inductive HostInput where
  | step
  | reset (faithful : Bool)
  | raiseIRQ
  | lowerIRQ
  | raiseNMI
  | setOverflow
deriving DecidableEq, Repr

/-- What one input of the host does; none acts inside another (60_exceptions.md R317). -/
def transition (h : HostInput) (s : State) : Host.Outcome State Fault Refusal :=
  match h with
  | .step => step s
  | .reset faithful => .next (hostReset faithful s)
  | .raiseIRQ => .next (raiseIRQ s)
  | .lowerIRQ => .next (lowerIRQ s)
  | .raiseNMI => .next (raiseNMI s)
  | .setOverflow => .next (setOverflow s)

/-- A run (70_reset_and_hazards.md R409): a sequence of inputs, ended by a fault, which is final (60_exceptions.md R307), and
refused at a step before the first reset (R402). -/
def runInputs : List HostInput → State → Host.Outcome State Fault Refusal
  | [], s => .next s
  | h :: rest, s =>
    match transition h s with
    | .next t => runInputs rest t
    | .fault r => .fault r
    | .refused r => .refused r

/-- The end of a run (70_reset_and_hazards.md R409), or that the run leaves the model. -/
inductive RunEnd where
  /-- Halted reached: a normal stop. -/
  | haltedReached (s : State)
  /-- The fault outcome: a failed run. -/
  | faultOutcome (r : Fault)
  /-- The host's budget of inputs is spent: neither. -/
  | budgetSpent (s : State)
  /-- No end of the spec's: the run is outside the model (a step before the first reset). -/
  | outsideModel (r : Refusal)
deriving DecidableEq, Repr

/-- Which end an outcome is (70_reset_and_hazards.md R409); what `halted` holds before the first reset is a draw and no
stop (10_state.md R39). -/
def endOf : Host.Outcome State Fault Refusal → RunEnd
  | .next s => if s.wasReset && s.halted then .haltedReached s else .budgetSpent s
  | .fault r => .faultOutcome r
  | .refused r => .outsideModel r

/-- How the run of these inputs ends (70_reset_and_hazards.md R409). -/
def runEnd (inputs : List HostInput) (s : State) : RunEnd := endOf (runInputs inputs s)

/-- `POWERON` (00_scope.md R7, 10_state.md R39): the values the host may find before the first reset. -/
structure PowerOn where
  a : Byte
  x : Byte
  y : Byte
  sp : Byte
  pc : Word
  p : Flags
  suspended : Bool
  halted : Bool
  irqPending : Bool
  nmiPending : Bool
deriving DecidableEq, Repr

/-- The state at power-on of a draw, over a platform of memory, devices and parameters (10_state.md R39; log 8): no reset has
been called, so a step is refused until one is. -/
def State.powerOn (draw : PowerOn) (mem : Memory) (devices : List Window) (params : Params) : State where
  a := draw.a
  x := draw.x
  y := draw.y
  sp := draw.sp
  pc := draw.pc
  p := draw.p
  suspended := draw.suspended
  halted := draw.halted
  irqPending := draw.irqPending
  nmiPending := draw.nmiPending
  mem := mem
  devices := devices
  params := params
  wasReset := false
  bus := []

end Sys2Proof.Machine
end

