-- ==== Sys2Proof/Safety.lean ====
section
/-! DEFINITION. What counts as a sound state and a safe run of the machine, in the terms the statements use. -/

namespace Sys2Proof

open Machine (State Memory HostInput)

/-- The power states of the controller (10_state.md R35). -/
inductive PowerState where
  | running
  | suspended
  | halted
deriving DecidableEq, Repr

/-- The controller's state, a function of the two latches (10_state.md R35); both set at once is no state of it. -/
def powerState (s : State) : Option PowerState :=
  match s.suspended, s.halted with
  | false, false => some .running
  | true, false => some .suspended
  | false, true => some .halted
  | true, true => none

/-- The invariant of every run: at most one of `suspended` and `halted` is set (10_state.md R35), and memory keeps
its canonical form. -/
structure Sound (s : State) : Prop where
  oneLatch : ¬(s.suspended = true ∧ s.halted = true)
  memory : Memory.wf s.mem

/-- A run of host inputs that no fault ends and that makes no step before the first reset (70_reset_and_hazards.md R402,
R409). -/
def SafeRun (inputs : List HostInput) (s : State) : Prop :=
  ∃ t, Machine.runInputs inputs s = .next t

end Sys2Proof
end

