-- ==== Sys2Proof/Certificates/Slice0/Obligations.lean ====
section
/-! DEFINITION. The statements for the provers, and the vocabulary they are written in. -/

namespace Sys2Proof.Stmt

open Sys2Proof.Machine

/-! The vocabulary: encodings, what a transition leaves alone, reads and writes in order. -/

/-- The word of a high and a low byte (00_scope.md R9). -/
def word (h l : Byte) : Word := BitVec.ofNat 16 (h.toNat * 256 + l.toNat)

/-- The opcode `op` alone is the instruction `i` (format OP). -/
def EncOp (op : Byte) (i : Instr) : Prop := ∀ rest, decode (op :: rest) = .ok (i, rest)

/-- The opcode `op` and any operand byte `b` are the instruction `f b` (format OP_B8). -/
def EncB8 (op : Byte) (f : Byte → Instr) : Prop := ∀ b rest, decode (op :: b :: rest) = .ok (f b, rest)

/-- The opcode `op` and any 16-bit operand, low byte first, are the instruction `f w` (format OP_W16). -/
def EncW16 (op : Byte) (f : Word → Instr) : Prop :=
  ∀ l h rest, decode (op :: l :: h :: rest) = .ok (f (word h l), rest)

/-- The nine forms of an instruction on `A` and an operand, each under its opcode. -/
structure AluOpcodes (f : Operand → Instr) (imm zp zpx abs abx aby zix ziy zpi : Byte) : Prop where
  imm : EncB8 imm fun b => f (.imm b)
  zp  : EncB8 zp fun b => f (.mem (.zp b))
  zpx : EncB8 zpx fun b => f (.mem (.zpx b))
  abs : EncW16 abs fun w => f (.mem (.abs w))
  abx : EncW16 abx fun w => f (.mem (.abx w))
  aby : EncW16 aby fun w => f (.mem (.aby w))
  zix : EncB8 zix fun b => f (.mem (.zix b))
  ziy : EncB8 ziy fun b => f (.mem (.ziy b))
  zpi : EncB8 zpi fun b => f (.mem (.zpi b))

/-- The five forms of a shift, rotate, INC or DEC, each under its opcode. -/
structure RmwOpcodes (f : Target → Instr) (acc zp zpx abs abx : Byte) : Prop where
  acc : EncOp acc (f .acc)
  zp  : EncB8 zp fun b => f (.mem (.zp b))
  zpx : EncB8 zpx fun b => f (.mem (.zpx b))
  abs : EncW16 abs fun w => f (.mem (.abs w))
  abx : EncW16 abx fun w => f (.mem (.abx w))

/-- All of memory is unchanged. -/
def KeepsMemory (s t : State) : Prop := t.mem = s.mem ∧ ∀ addr, peek t addr = peek s addr

/-- Memory after writes at different addresses: each written byte of plain memory holds its value, a device's address
stores nothing, every other byte reads as before. -/
structure MemoryAfter (writes : List (Word × Byte)) (s t : State) : Prop where
  stored : ∀ addr v, (addr, v) ∈ writes → isDevice s addr = false → peek t addr = v
  device : ∀ addr, isDevice s addr = true → peek t addr = peek s addr
  others : ∀ addr, (∀ v, (addr, v) ∉ writes) → peek t addr = peek s addr

/-- The bytes the bus supplies to reads at these addresses, one after the other, and the state after them. -/
def readSeq : List Word → State → List Byte × State
  | [], s => ([], s)
  | addr :: rest, s =>
    let v := answer s addr
    let t := readSeq rest { s with bus := .read addr v :: s.bus }
    (v :: t.1, t.2)

/-- The address in the stack page of a stack pointer. -/
def stackAt (sp : Byte) : Word := BitVec.ofNat 16 (0x100 + sp.toNat)

/-- `N` and `Z` of a byte. -/
def nz (v : Byte) (p : Flags) : Flags := { p with n := decide (0x80 ≤ v.toNat), z := decide (v.toNat = 0) }

/-- An instruction that reads an operand `m` and then changes only `A`, `X`, `Y` and flags, as `post` says of the state
`u` after the operand's transactions: nothing else changes, and memory is unchanged. -/
def OperandRule (f : Operand → Instr) (post : Byte → State → State → Prop) : Prop :=
  ∀ (o : Operand) (s : State), ∃ t, exec (f o) s = .next t ∧ KeepsMemory s t ∧
    t.bus = (readOperand o s).2.bus ∧ post (readOperand o s).1 s t

/-- The sum of 41_arithmetic.md R121 and R122, over the natural numbers. -/
def AdcResult (a m : Byte) (c d : Bool) (r : Byte) (c' v' : Bool) : Prop :=
  (d = false →
    let sum := a.toNat + m.toNat + c.toNat
    r.toNat = sum % 256 ∧ c' = decide (0xFF < sum) ∧
      v' = decide ((0x80 ≤ a.toNat ↔ 0x80 ≤ m.toNat) ∧ ¬(0x80 ≤ r.toNat ↔ 0x80 ≤ a.toNat))) ∧
  (d = true →
    let lo := a.toNat % 16 + m.toNat % 16 + c.toNat
    let lo := if 9 < lo then lo + 6 else lo
    let sum := a.toNat / 16 * 16 + m.toNat / 16 * 16 + lo
    r.toNat = (if 0x9F < sum then sum + 0x60 else sum) % 256 ∧ c' = decide (0x9F < sum) ∧
      v' = decide ((0x80 ≤ a.toNat ↔ 0x80 ≤ m.toNat) ∧ ¬(0x80 ≤ sum % 256 ↔ 0x80 ≤ a.toNat)))

/-- The difference of 41_arithmetic.md R123 and R124, over the integers. -/
def SbcResult (a m : Byte) (c d : Bool) (r : Byte) (c' v' : Bool) : Prop :=
  let diff : Int := a.toNat - m.toNat + c.toNat - 1
  let low : Int := (a.toNat % 16 : Nat) - (m.toNat % 16 : Nat) + c.toNat - 1
  let high : Int := if diff < 0 then diff - 0x60 else diff
  (r.toNat : Int) = (if d then (if low < 0 then high - 6 else high) else diff) % 256 ∧
    c' = decide (0 ≤ diff) ∧
    v' = decide (¬(0x80 ≤ a.toNat ↔ 0x80 ≤ m.toNat) ∧ ¬(0x80 ≤ diff % 256 ↔ 0x80 ≤ a.toNat))

/-- A branch: PC moves by the signed offset modulo 65536 when the condition holds; nothing else changes. -/
def BranchRule (f : Byte → Instr) (cond : State → Prop) : Prop :=
  ∀ (rel : Byte) (s : State), ∃ t, exec (f rel) s = .next t ∧ t = { s with pc := t.pc } ∧
    (cond s → (t.pc.toNat : Int) = ((s.pc.toNat : Int) + rel.toInt) % 65536) ∧ (¬cond s → t.pc = s.pc)

/-- A read-modify-write on a target: `result` of the old byte and carry goes back where it came from, `N` and `Z` come
from it, and the carry is `carry` of the old byte and carry. -/
def RmwRule (f : Target → Instr) (result : Nat → Nat → Nat) (carry : Nat → Bool → Bool) : Prop :=
  (∀ s : State, ∃ r : Byte, r.toNat = result s.a.toNat s.p.c.toNat % 256 ∧
    exec (f .acc) s = .next { s with a := r, p := nz r { s.p with c := carry s.a.toNat s.p.c } }) ∧
  (∀ (m : Addr) (s : State), ∃ (t : State) (v r : Byte),
    let ea := (resolve m s).1
    let u := (resolve m s).2
    v = answer u ea ∧ r.toNat = result v.toNat s.p.c.toNat % 256 ∧
    exec (f (.mem m)) s = .next t ∧ MemoryAfter [(ea, r)] s t ∧
    t = { s with
      p := nz r { s.p with c := carry v.toNat s.p.c }
      mem := t.mem
      bus := .write ea r :: .read ea v :: u.bus })

/-- Two bytes counted as one step forward or back. -/
def CountRule (i : Instr) (get : State → Byte) (put : State → Byte → State) (n : Nat) : Prop :=
  ∀ s : State, ∃ r : Byte, r.toNat = ((get s).toNat + n) % 256 ∧
    exec i s = .next { put s r with p := nz r s.p }

/-- A store of one byte at the effective address, with no read of it. -/
def StoreRule (f : Addr → Instr) (value : State → Byte) : Prop :=
  ∀ (m : Addr) (s : State), ∃ t,
    exec (f m) s = .next t ∧ MemoryAfter [((resolve m s).1, value s)] s t ∧
    t = { s with mem := t.mem, bus := .write (resolve m s).1 (value s) :: (resolve m s).2.bus }

/-- A push of one byte. -/
def PushRule (i : Instr) (value : State → Byte) : Prop :=
  ∀ s : State, ∃ t, exec i s = .next t ∧ MemoryAfter [(stackAt s.sp, value s)] s t ∧
    t = { s with sp := t.sp, mem := t.mem, bus := .write (stackAt s.sp) (value s) :: s.bus } ∧
    t.sp.toNat = (s.sp.toNat + 255) % 256

/-- A pull of one byte into a register, with its `N` and `Z`. -/
def PullRule (i : Instr) (put : State → Byte → State) : Prop :=
  ∀ s : State, ∃ sp' v : Byte, sp'.toNat = (s.sp.toNat + 1) % 256 ∧ v = answer s (stackAt sp') ∧
    exec i s = .next (put { s with sp := sp', p := nz v s.p, bus := .read (stackAt sp') v :: s.bus } v)

/-- What an interrupt entry through the vector `vec` makes of `s` (60_exceptions.md R304). -/
def EntryRule (vec : Word) (s t : State) : Prop :=
  let hi : Byte := s.pc.extractLsb' 8 8
  let lo : Byte := s.pc.extractLsb' 0 8
  let a1 := stackAt s.sp
  let a2 := stackAt (s.sp - 1#8)
  let a3 := stackAt (s.sp - 2#8)
  let u := { s with
    suspended := false
    sp := s.sp - 3#8
    p := { s.p with d := false, i := true }
    mem := t.mem
    bus := .write a3 (packP s.p) :: .write a2 lo :: .write a1 hi :: s.bus }
  MemoryAfter [(a1, hi), (a2, lo), (a3, packP s.p)] s t ∧
    ∃ l h : Byte, (readSeq [vec, vec + 1#16] u).1 = [l, h] ∧ t = { (readSeq [vec, vec + 1#16] u).2 with pc := word h l }

/-- The status byte `v` spread over the flags (10_state.md R27, R29). -/
def flagsOf (v : Byte) : Flags where
  n := v.toNat.testBit 7
  v := v.toNat.testBit 6
  b := v.toNat.testBit 4
  d := v.toNat.testBit 3
  i := v.toNat.testBit 2
  z := v.toNat.testBit 1
  c := v.toNat.testBit 0

/-- The pointer reads of a mode (40_addressing_modes.md R100). -/
def pointerReads : Addr → Nat
  | .zp _ | .zpx _ | .zpy _ | .abs _ | .abx _ | .aby _ => 0
  | .ind _ | .iax _ | .zpi _ | .zix _ | .ziy _ => 2

/-- The reads of a read-type operand (40_addressing_modes.md R118). -/
def operandReads : Operand → Nat
  | .imm _ => 0
  | .mem m => pointerReads m + 1

/-- The reads of a read-modify-write target (43_shift_incdec.md R160). -/
def targetReads : Target → Nat
  | .acc => 0
  | .mem m => pointerReads m + 1

/-- The writes of a read-modify-write target (43_shift_incdec.md R160). -/
def targetWrites : Target → Nat
  | .acc => 0
  | .mem _ => 1

/-- How many bus reads the rule of an instruction lists after its fetch. -/
def readsOf : Instr → Nat
  | .adc o | .sbc o | .cmp o | .cpx o | .cpy o | .and o | .ora o | .eor o | .bit o => operandReads o
  | .lda o | .ldx o | .ldy o => operandReads o
  | .trb m | .tsb m => pointerReads m + 1
  | .asl t | .lsr t | .rol t | .ror t | .inc t | .dec t => targetReads t
  | .sta m | .stx m | .sty m | .stz m | .jmp m => pointerReads m
  | .pla | .plp | .plx | .ply => 1
  | .rts => 2
  | .rti => 3
  | .brk => 2
  | .inx | .iny | .dex | .dey | .tax | .tay | .txa | .tya | .tsx | .txs | .pha | .php | .phx | .phy => 0
  | .bcc _ | .bcs _ | .beq _ | .bne _ | .bmi _ | .bpl _ | .bvc _ | .bvs _ | .bra _ | .jsr _ => 0
  | .wai | .stp | .nop | .clc | .sec | .cli | .sei | .cld | .sed | .clv | .undef _ => 0

/-- How many bus writes the rule of an instruction lists. -/
def writesOf : Instr → Nat
  | .trb _ | .tsb _ | .sta _ | .stx _ | .sty _ | .stz _ => 1
  | .asl t | .lsr t | .rol t | .ror t | .inc t | .dec t => targetWrites t
  | .pha | .php | .phx | .phy => 1
  | .jsr _ => 2
  | .brk => 3
  | .adc _ | .sbc _ | .cmp _ | .cpx _ | .cpy _ | .and _ | .ora _ | .eor _ | .bit _ | .lda _ | .ldx _ | .ldy _ => 0
  | .inx | .iny | .dex | .dey | .tax | .tay | .txa | .tya | .tsx | .txs | .pla | .plp | .plx | .ply => 0
  | .bcc _ | .bcs _ | .beq _ | .bne _ | .bmi _ | .bpl _ | .bvc _ | .bvs _ | .bra _ | .jmp _ | .rts | .rti => 0
  | .wai | .stp | .nop | .clc | .sec | .cli | .sei | .cld | .sed | .clv | .undef _ => 0

def isRead : BusEvent → Bool
  | .read _ _ => true
  | .write _ _ => false

def isWrite : BusEvent → Bool
  | .read _ _ => false
  | .write _ _ => true

/-- The operand is a byte of memory, not an immediate one. -/
def isMem : Operand → Bool
  | .imm _ => false
  | .mem _ => true

/-- The target is the accumulator. -/
def isAcc : Target → Bool
  | .acc => true
  | .mem _ => false

/-- The instruction writes `N` (10_state.md R26). -/
def writesN : Instr → Bool
  | .bit o => isMem o
  | .adc _ | .sbc _ | .cmp _ | .cpx _ | .cpy _ | .and _ | .ora _ | .eor _ => true
  | .asl _ | .lsr _ | .rol _ | .ror _ | .inc _ | .dec _ | .inx | .iny | .dex | .dey => true
  | .lda _ | .ldx _ | .ldy _ | .tax | .tay | .txa | .tya | .tsx | .pla | .plx | .ply | .plp | .rti => true
  | _ => false

/-- The instruction writes `Z` (10_state.md R26): as `N`, and BIT immediate, TRB, TSB. -/
def writesZ : Instr → Bool
  | .bit _ | .trb _ | .tsb _ => true
  | i => writesN i

/-- The instruction writes `V` (10_state.md R26). -/
def writesV : Instr → Bool
  | .bit o => isMem o
  | .adc _ | .sbc _ | .clv | .plp | .rti => true
  | _ => false

/-- The instruction writes `B` (10_state.md R26). -/
def writesB : Instr → Bool
  | .brk | .plp | .rti => true
  | _ => false

/-- The instruction writes `D` (10_state.md R26). -/
def writesD : Instr → Bool
  | .cld | .sed | .plp | .rti | .brk => true
  | _ => false

/-- The instruction writes `I` (10_state.md R26). -/
def writesI : Instr → Bool
  | .cli | .sei | .plp | .rti | .brk => true
  | _ => false

/-- The instruction writes `C` (10_state.md R26). -/
def writesC : Instr → Bool
  | .adc _ | .sbc _ | .cmp _ | .cpx _ | .cpy _ | .asl _ | .lsr _ | .rol _ | .ror _ | .clc | .sec | .plp | .rti => true
  | _ => false

/-- The instruction writes `A` (10_state.md R20). -/
def writesA : Instr → Bool
  | .adc _ | .sbc _ | .and _ | .ora _ | .eor _ | .lda _ | .txa | .tya | .pla => true
  | .asl t | .lsr t | .rol t | .ror t | .inc t | .dec t => isAcc t
  | _ => false

/-- The instruction writes `X` (10_state.md R20). -/
def writesX : Instr → Bool
  | .ldx _ | .tax | .tsx | .inx | .dex | .plx => true
  | _ => false

/-- The instruction writes `Y` (10_state.md R20). -/
def writesY : Instr → Bool
  | .ldy _ | .tay | .iny | .dey | .ply => true
  | _ => false

/-- The instruction writes `SP` (10_state.md R20): TXS, every push and pull, the entry of BRK. -/
def writesSP : Instr → Bool
  | .txs | .pha | .php | .phx | .phy | .pla | .plp | .plx | .ply | .jsr _ | .rts | .rti | .brk => true
  | .adc _ | .sbc _ | .cmp _ | .cpx _ | .cpy _ | .and _ | .ora _ | .eor _ | .bit _ | .trb _ | .tsb _ | .asl _
  | .lsr _ | .rol _ | .ror _ | .inc _ | .dec _ | .inx | .iny | .dex | .dey | .lda _ | .ldx _ | .ldy _ | .sta _
  | .stx _ | .sty _ | .stz _ | .tax | .tay | .txa | .tya | .tsx | .bcc _ | .bcs _ | .beq _ | .bne _ | .bmi _
  | .bpl _ | .bvc _ | .bvs _ | .bra _ | .jmp _ | .wai | .stp | .nop | .clc | .sec | .cli | .sei | .cld | .sed
  | .clv | .undef _ => false

/-- The operation writes `PC` itself, beyond the fetch (10_state.md R24). -/
def writesPC : Instr → Bool
  | .bcc _ | .bcs _ | .beq _ | .bne _ | .bmi _ | .bpl _ | .bvc _ | .bvs _ | .bra _ => true
  | .jmp _ | .jsr _ | .rts | .rti | .brk => true
  | .adc _ | .sbc _ | .cmp _ | .cpx _ | .cpy _ | .and _ | .ora _ | .eor _ | .bit _ | .trb _ | .tsb _ | .asl _
  | .lsr _ | .rol _ | .ror _ | .inc _ | .dec _ | .inx | .iny | .dex | .dey | .lda _ | .ldx _ | .ldy _ | .sta _
  | .stx _ | .sty _ | .stz _ | .tax | .tay | .txa | .tya | .tsx | .txs | .pha | .php | .phx | .phy | .pla
  | .plp | .plx | .ply | .wai | .stp | .nop | .clc | .sec | .cli | .sei | .cld | .sed | .clv | .undef _ => false

/-- The state after `n` fetches, and the bytes fetched in order. -/
def fetchSeq : Nat → State → List Byte × State
  | 0, s => ([], s)
  | n + 1, s =>
    let t := fetchSeq n (fetch8 s).2
    ((fetch8 s).1 :: t.1, t.2)

/-- The bytes the core fetches of an instruction: all but BRK's signature (47_system.md R240). -/
def fetchedBytes (i : Instr) : Nat := if i = .brk then 1 else i.length

/-- No step of these inputs comes before their first reset (70_reset_and_hazards.md R402). -/
def resetBeforeStep : List HostInput → Bool
  | [] => true
  | .step :: _ => false
  | .reset _ :: _ => true
  | .raiseIRQ :: rest | .lowerIRQ :: rest | .raiseNMI :: rest | .setOverflow :: rest => resetBeforeStep rest

end Sys2Proof.Stmt

open Sys2Proof Sys2Proof.Machine Sys2Proof.Stmt

/-! Encoding. -/

/-- Words written out from 30_encoding.md R71 to R76 decode to the instructions they stand for.
Rests on the spec's own decisions D6 (the opcode map), D8 (low byte first). -/
def Obligations.ConcreteWordsDecode : Prop :=
  decode [0x69, 0x50] = .ok (.adc (.imm 0x50), []) ∧
  decode [0x3C, 0x34, 0x12] = .ok (.bit (.mem (.abx 0x1234)), []) ∧
  decode [0x7E, 0x00, 0x80] = .ok (.ror (.mem (.abx 0x8000)), []) ∧
  decode [0xB6, 0xF0] = .ok (.ldx (.mem (.zpy 0xF0)), []) ∧
  decode [0x92, 0x10] = .ok (.sta (.zpi 0x10), []) ∧
  decode [0x68] = .ok (.pla, []) ∧
  decode [0x7C, 0x34, 0x12] = .ok (.jmp (.iax 0x1234), []) ∧
  decode [0x00, 0xEA, 0xDB] = .ok (.brk, [0xDB]) ∧
  decode [0x02, 0xDB] = .ok (.undef 0x02, [0xDB])

/-- Every well-formed instruction is encoded, in as many bytes as its length, and decoding what was encoded gives it
back, whatever follows it (30_encoding.md R70 to R76).
Rests on the spec's own decisions D6, D8. -/
def Obligations.DecodeOfEncode : Prop :=
  ∀ (i : Instr) (rest : List Byte), i.wf = true →
    ∃ bytes, encode i = some bytes ∧ bytes.length = i.length ∧ decode (bytes ++ rest) = .ok (i, rest)

/-- What decodes is well-formed, its length is the one its opcode byte gives, and it encodes to the bytes it was
decoded from (but for BRK's signature byte, which stands for nothing); 30_encoding.md R70, R74, R76.
Rests on the spec's own decisions D6, D8. -/
def Obligations.EncodeOfDecode : Prop :=
  ∀ (bytes : List Byte) (i : Instr) (rest : List Byte), decode bytes = .ok (i, rest) →
    i.wf = true ∧ ∃ op tail, bytes = (op :: tail) ++ rest ∧ (op :: tail).length = opcodeLength op ∧
      i.length = opcodeLength op ∧ (i ≠ .brk → encode i = some (op :: tail))

/-- The undefined opcodes are the 76 bytes of 30_encoding.md R78, each of length 1.
Rests on the spec's own decisions D6, D34. -/
def Obligations.UndefinedOpcodesAreTheListed : Prop :=
  undefinedOpcodes.length = 76 ∧ undefinedOpcodes.Nodup ∧
  ∀ (op : Byte) (rest : List Byte), op ∈ undefinedOpcodes ↔ decode (op :: rest) = .ok (.undef op, rest)

/-! Fetch and step. -/

/-- After the first reset, a Running step fetches the bytes of the instruction that the bytes at PC decode to (of BRK the opcode alone), runs
it, and then, if it ends in a next state, evaluates the boundary (60_exceptions.md R300, R301).  In plain memory the bytes
fetched are those that memory holds at PC and after.
Rests on the spec's own decisions D12 (BRK does not read its signature byte). -/
def Obligations.StepRunsDecodedInstruction : Prop :=
  (∀ (s : State) (i : Instr) (rest : List Byte), s.wasReset = true → s.halted = false → s.suspended = false →
    decode (fetchSeq 3 s).1 = .ok (i, rest) →
    step s =
      match exec i (fetchSeq (fetchedBytes i) s).2 with
      | .next t => .next (boundary t)
      | .fault r => .fault r
      | .refused r => .refused r) ∧
  (∀ s : State, isDevice s s.pc = false →
    fetchSeq 1 s = ([peek s s.pc], { s with pc := s.pc + 1#16, bus := .read s.pc (peek s s.pc) :: s.bus }))

/-- After the first reset, a Halted step changes nothing and makes no transaction (60_exceptions.md R323).  A Suspended step fetches nothing: it
only evaluates the boundary, and while no NMI is pending and no IRQ is both pending and unmasked it changes nothing at all
(R300, R321).
Rests on the spec's own decisions D3. -/
def Obligations.WaitingStepsFetchNothing : Prop :=
  (∀ s : State, s.wasReset = true → s.halted = true → step s = .next s) ∧
  ∀ s : State, s.wasReset = true → s.halted = false → s.suspended = true →
    step s = .next (boundary s) ∧
    (s.nmiPending = false → (s.irqPending = false ∨ s.p.i = true) → step s = .next s)

/-- A step is refused before the first reset (10_state.md R39, 70_reset_and_hazards.md R402) and at no other time; after it the
only stop is the fault of an undefined opcode under UNDEF_OP_POLICY = FAULT (00_scope.md R13).  So a run from power-on needs a
reset before its first step, and under NOP1 nothing else ends a run but the host.  Of the ends of a run (R409) Halted reached
stays through every further step, and the fault outcome through every further input.
Rests on the spec's own decisions D7, D24 (nothing is specified before the first reset). -/
def Obligations.StepsAndRunsStopAsListed : Prop :=
  (∀ s : State, (s.wasReset = false ∧ step s = .refused .stepBeforeReset) ∨
    (s.wasReset = true ∧ ((∃ t, step s = .next t) ∨
      (s.params.undefPolicy = .fault ∧ s.halted = false ∧ s.suspended = false ∧
        ∃ op ∈ undefinedOpcodes, ∃ final, step s = .fault (.undefinedOpcode op s.pc final))))) ∧
  (∀ (inputs : List HostInput) (draw : PowerOn) (mem : Memory) (devices : List Window) (params : Params),
    (resetBeforeStep inputs = false →
      runEnd inputs (State.powerOn draw mem devices params) = .outsideModel .stepBeforeReset) ∧
    (params.undefPolicy = .nop1 → resetBeforeStep inputs = true →
      SafeRun inputs (State.powerOn draw mem devices params))) ∧
  (∀ (inputs : List HostInput) (s : State), s.wasReset = true → s.params.undefPolicy = .nop1 → SafeRun inputs s) ∧
  (∀ (n : Nat) (inputs : List HostInput) (s t : State), runEnd inputs s = .haltedReached t →
    runEnd (inputs ++ List.replicate n .step) s = .haltedReached t) ∧
  (∀ (inputs more : List HostInput) (s : State) (r : Fault), runEnd inputs s = .faultOutcome r →
    runEnd (inputs ++ more) s = .faultOutcome r)

/-- The effective address of each direct mode (40_addressing_modes.md R105 to R110), found with no transaction; and an
operand is the immediate byte, with no transaction, or one read of the effective address after the pointer reads (R104,
R118).  The masking of ZPY, the wrap of ABX and ABY and the single read are the spec's own decisions D10, D11, D12. -/
def Obligations.DirectModesComputeTheAddress : Prop :=
  (∀ s : State, ∀ b : Byte, ∀ w : Word,
    (∀ m ∈ [Addr.zp b, .zpx b, .zpy b, .abs w, .abx w, .aby w], (resolve m s).2 = s) ∧
    (resolve (.zp b) s).1.toNat = b.toNat ∧
    (resolve (.zpx b) s).1.toNat = (b.toNat + s.x.toNat) % 256 ∧
    (resolve (.zpy b) s).1.toNat = (b.toNat + s.y.toNat) % 256 ∧
    (resolve (.abs w) s).1 = w ∧
    (resolve (.abx w) s).1.toNat = (w.toNat + s.x.toNat) % 65536 ∧
    (resolve (.aby w) s).1.toNat = (w.toNat + s.y.toNat) % 65536) ∧
  (∀ (b : Byte) (s : State), readOperand (.imm b) s = (b, s)) ∧
  (∀ (m : Addr) (s : State),
    let ea := (resolve m s).1
    let u := (resolve m s).2
    readOperand (.mem m) s = (answer u ea, { u with bus := .read ea (answer u ea) :: u.bus }))

/-- The effective address of each indirect mode (40_addressing_modes.md R101, R111 to R115): two pointer reads, the low
byte first, the high byte at the next address modulo 65536, or for a zero-page pointer at 0xFF where ZP_PTR_WRAP says.
ZP_PTR_WRAP, the absence of a page-wrap bug and the wrap of ZIY are the spec's own decisions D9, D11, D35. -/
def Obligations.IndirectModesReadAPointer : Prop :=
  ∀ (s : State) (b : Byte) (w : Word),
    let zpHigh : Byte → Word := fun ptr =>
      BitVec.ofNat 16 (if s.params.zpPtrWrap then (ptr.toNat + 1) % 256 else ptr.toNat + 1)
    let iax : Word := BitVec.ofNat 16 (w.toNat + s.x.toNat)
    let zpx : Byte := BitVec.ofNat 8 (b.toNat + s.x.toNat)
    let pointsTo : Addr → Word → Word → Nat → Prop := fun m lowAt highAt offset =>
      ∃ l h : Byte, (readSeq [lowAt, highAt] s).1 = [l, h] ∧ (resolve m s).2 = (readSeq [lowAt, highAt] s).2 ∧
        (resolve m s).1.toNat = (h.toNat * 256 + l.toNat + offset) % 65536
    pointsTo (.ind w) w (w + 1#16) 0 ∧
    pointsTo (.iax w) iax (iax + 1#16) 0 ∧
    pointsTo (.zpi b) (BitVec.ofNat 16 b.toNat) (zpHigh b) 0 ∧
    pointsTo (.zix b) (BitVec.ofNat 16 zpx.toNat) (zpHigh zpx) 0 ∧
    pointsTo (.ziy b) (BitVec.ofNat 16 b.toNat) (zpHigh b) s.y.toNat

/-- A fetch moves PC past the bytes it reads and nothing else; a resolver changes nothing more; the only transactions of the
two are the reads of the instruction's bytes and of its pointer (40_addressing_modes.md R117). -/
def Obligations.FetchAndResolversOnlyMovePC : Prop :=
  (∀ s : State, ∃ reads, (fetchInstr s).2 =
      { s with pc := s.pc + BitVec.ofNat 16 (fetchedBytes (fetchInstr s).1), bus := reads ++ s.bus } ∧
    reads.length = fetchedBytes (fetchInstr s).1 ∧ reads.all isRead = true) ∧
  (∀ (m : Addr) (s : State), ∃ reads, (resolve m s).2 = { s with bus := reads ++ s.bus } ∧
    reads.length = pointerReads m ∧ reads.all isRead = true)

/-! Arithmetic and compare. -/

/-- ADC in every form, binary and decimal (41_arithmetic.md R121, R122, R125).
Rests on the spec's own decisions D16 (V, N and Z in decimal mode), D31 (operands that are not BCD). -/
def Obligations.AdcAddsWithCarry : Prop :=
  AluOpcodes .adc 0x69 0x65 0x75 0x6D 0x7D 0x79 0x61 0x71 0x72 ∧
  OperandRule .adc fun m s t =>
    AdcResult s.a m s.p.c s.p.d t.a t.p.c t.p.v ∧
    t = { s with a := t.a, p := nz t.a { s.p with c := t.p.c, v := t.p.v }, bus := t.bus }

/-- SBC in every form, binary and decimal (41_arithmetic.md R123, R124, R126).
Rests on the spec's own decisions D17 (the decimal sequence), D31. -/
def Obligations.SbcSubtractsWithBorrow : Prop :=
  AluOpcodes .sbc 0xE9 0xE5 0xF5 0xED 0xFD 0xF9 0xE1 0xF1 0xF2 ∧
  OperandRule .sbc fun m s t =>
    SbcResult s.a m s.p.c s.p.d t.a t.p.c t.p.v ∧
    t = { s with a := t.a, p := nz t.a { s.p with c := t.p.c, v := t.p.v }, bus := t.bus }

/-- In binary mode SBC of an operand is ADC of its complement, for every A, operand and carry; Carry is "not borrow"
(41_arithmetic.md R123). -/
def Obligations.SbcIsAdcOfComplement : Prop :=
  (∀ (s : State) (v : Byte), s.p.d = false → exec (.sbc (.imm v)) s = exec (.adc (.imm (~~~v))) s) ∧
  ∀ (a m : Byte) (c : Bool), sbcBinary a m c = adcBinary a (~~~m) c ∧
    (sbcBinary a m c).c = decide ((a.toNat : Int) - m.toNat - (1 - c.toNat) ≥ 0)

/-- In binary mode V after ADC and SBC says that the exact two's-complement sum or difference does not fit in eight bits
(41_arithmetic.md R120). -/
def Obligations.OverflowIsSignedOverflow : Prop :=
  ∀ (s : State) (m : Byte), s.p.d = false →
    (∃ t, exec (.adc (.imm m)) s = .next t ∧
      (t.p.v = true ↔ s.a.toInt + m.toInt + s.p.c.toNat < -128 ∨ 127 < s.a.toInt + m.toInt + s.p.c.toNat)) ∧
    (∃ t, exec (.sbc (.imm m)) s = .next t ∧
      (t.p.v = true ↔ s.a.toInt - m.toInt + s.p.c.toNat - 1 < -128 ∨ 127 < s.a.toInt - m.toInt + s.p.c.toNat - 1))

/-- Decimal ADC of two BCD bytes is the decimal sum, with Carry its hundreds (90_conflicts.md C7).
Rests on the spec's own choice C7 (the nibble-correction form). -/
def Obligations.DecimalAddOfDigits : Prop :=
  ∀ (s : State) (m : Byte) (ah al mh ml : Nat), s.p.d = true → ah ≤ 9 → al ≤ 9 → mh ≤ 9 → ml ≤ 9 →
    s.a.toNat = ah * 16 + al → m.toNat = mh * 16 + ml →
    ∃ t rh rl, exec (.adc (.imm m)) s = .next t ∧ rh ≤ 9 ∧ rl ≤ 9 ∧ t.a.toNat = rh * 16 + rl ∧
      t.p.c.toNat * 100 + (rh * 10 + rl) = (ah * 10 + al) + (mh * 10 + ml) + s.p.c.toNat

/-- Decimal SBC of two BCD bytes is the decimal difference modulo 100, with Carry "not borrow" (41_arithmetic.md R124).
Rests on the spec's own decisions D17. -/
def Obligations.DecimalSubtractOfDigits : Prop :=
  ∀ (s : State) (m : Byte) (ah al mh ml : Nat), s.p.d = true → ah ≤ 9 → al ≤ 9 → mh ≤ 9 → ml ≤ 9 →
    s.a.toNat = ah * 16 + al → m.toNat = mh * 16 + ml →
    ∃ t rh rl, exec (.sbc (.imm m)) s = .next t ∧ rh ≤ 9 ∧ rl ≤ 9 ∧ t.a.toNat = rh * 16 + rl ∧
      ((rh * 10 + rl : Nat) : Int) - (if t.p.c then 0 else 100) =
        ((ah * 10 + al : Nat) : Int) - (mh * 10 + ml : Nat) - (1 - s.p.c.toNat)

/-- CMP, CPX and CPY in every form set N, Z and C from the register and the operand and change nothing else
(41_arithmetic.md R127 to R130). -/
def Obligations.ComparesSetFlagsOnly : Prop :=
  AluOpcodes .cmp 0xC9 0xC5 0xD5 0xCD 0xDD 0xD9 0xC1 0xD1 0xD2 ∧
  (EncB8 0xE0 (fun b => .cpx (.imm b)) ∧ EncB8 0xE4 (fun b => .cpx (.mem (.zp b))) ∧
    EncW16 0xEC (fun w => .cpx (.mem (.abs w)))) ∧
  (EncB8 0xC0 (fun b => .cpy (.imm b)) ∧ EncB8 0xC4 (fun b => .cpy (.mem (.zp b))) ∧
    EncW16 0xCC (fun w => .cpy (.mem (.abs w)))) ∧
  let rule : (State → Byte) → Byte → State → State → Prop := fun reg m s t =>
    t = { s with p := t.p, bus := t.bus } ∧
    t.p = { s.p with n := t.p.n, z := decide (reg s = m), c := decide (m.toNat ≤ (reg s).toNat) } ∧
    t.p.n = decide (0x80 ≤ ((reg s).toNat + (256 - m.toNat)) % 256)
  OperandRule .cmp (rule (·.a)) ∧ OperandRule .cpx (rule (·.x)) ∧ OperandRule .cpy (rule (·.y))

/-! Logic. -/

/-- AND, ORA and EOR in every form (42_logic.md R140 to R142), bit by bit. -/
def Obligations.LogicCombinesIntoA : Prop :=
  AluOpcodes .and 0x29 0x25 0x35 0x2D 0x3D 0x39 0x21 0x31 0x32 ∧
  AluOpcodes .ora 0x09 0x05 0x15 0x0D 0x1D 0x19 0x01 0x11 0x12 ∧
  AluOpcodes .eor 0x49 0x45 0x55 0x4D 0x5D 0x59 0x41 0x51 0x52 ∧
  let rule : (Bool → Bool → Bool) → Byte → State → State → Prop := fun f m s t =>
    (∀ k < 8, t.a.toNat.testBit k = f (s.a.toNat.testBit k) (m.toNat.testBit k)) ∧
    t = { s with a := t.a, p := nz t.a s.p, bus := t.bus }
  OperandRule .and (rule (· && ·)) ∧ OperandRule .ora (rule (· || ·)) ∧ OperandRule .eor (rule (· ^^ ·))

/-- BIT (42_logic.md R143): Z tests A and the operand; N and V are bits 7 and 6 of the operand, but in the immediate form
they are unchanged; A is not written. -/
def Obligations.BitTestsTheOperand : Prop :=
  EncB8 0x89 (fun b => .bit (.imm b)) ∧ EncB8 0x24 (fun b => .bit (.mem (.zp b))) ∧
  EncB8 0x34 (fun b => .bit (.mem (.zpx b))) ∧ EncW16 0x2C (fun w => .bit (.mem (.abs w))) ∧
  EncW16 0x3C (fun w => .bit (.mem (.abx w))) ∧
  OperandRule .bit (fun m s t =>
    t = { s with p := { s.p with n := t.p.n, v := t.p.v, z := t.p.z }, bus := t.bus } ∧
    (t.p.z = true ↔ ∀ k < 8, ¬(s.a.toNat.testBit k = true ∧ m.toNat.testBit k = true))) ∧
  (∀ (b : Byte) (s : State), ∃ t, exec (.bit (.imm b)) s = .next t ∧ t.p.n = s.p.n ∧ t.p.v = s.p.v) ∧
  (∀ (m : Addr) (s : State), ∃ t, exec (.bit (.mem m)) s = .next t ∧
    t.p.n = (readOperand (.mem m) s).1.toNat.testBit 7 ∧ t.p.v = (readOperand (.mem m) s).1.toNat.testBit 6)

/-- TRB and TSB (42_logic.md R144, R145): one read and then always one write of the same address; Z tests the bits before
they change; nothing else changes.
Rests on the spec's own decisions D12, D33 (the write is always made). -/
def Obligations.TestAndSetResetBits : Prop :=
  EncB8 0x14 (fun b => .trb (.zp b)) ∧ EncW16 0x1C (fun w => .trb (.abs w)) ∧
  EncB8 0x04 (fun b => .tsb (.zp b)) ∧ EncW16 0x0C (fun w => .tsb (.abs w)) ∧
  let rule : (Addr → Instr) → (Bool → Bool → Bool) → Prop := fun f g =>
    ∀ (m : Addr) (s : State), ∃ (t : State) (v r : Byte) (z : Bool),
      let ea := (resolve m s).1
      let u := (resolve m s).2
      v = answer u ea ∧ exec (f m) s = .next t ∧ MemoryAfter [(ea, r)] s t ∧
      (∀ k < 8, r.toNat.testBit k = g (s.a.toNat.testBit k) (v.toNat.testBit k)) ∧
      (z = true ↔ ∀ k < 8, ¬(s.a.toNat.testBit k = true ∧ v.toNat.testBit k = true)) ∧
      t = { s with p := { s.p with z := z }, mem := t.mem, bus := .write ea r :: .read ea v :: u.bus }
  rule .trb (fun a v => v && !a) ∧ rule .tsb (fun a v => v || a)

/-! Shift and count. -/

/-- ASL, LSR, ROL and ROR on A and on memory (43_shift_incdec.md R160 to R164): the bit shifted out is the new Carry, the
old Carry comes in on the vacated bit of a rotate, N and Z come from the result.
Rests on the spec's own decisions D12 (one read, one write), D18 (N and Z from the result). -/
def Obligations.ShiftsAndRotates : Prop :=
  RmwOpcodes .asl 0x0A 0x06 0x16 0x0E 0x1E ∧ RmwOpcodes .lsr 0x4A 0x46 0x56 0x4E 0x5E ∧
  RmwOpcodes .rol 0x2A 0x26 0x36 0x2E 0x3E ∧ RmwOpcodes .ror 0x6A 0x66 0x76 0x6E 0x7E ∧
  RmwRule .asl (fun m _ => m * 2) (fun m _ => decide (0x80 ≤ m)) ∧
  RmwRule .lsr (fun m _ => m / 2) (fun m _ => decide (m % 2 = 1)) ∧
  RmwRule .rol (fun m c => m * 2 + c) (fun m _ => decide (0x80 ≤ m)) ∧
  RmwRule .ror (fun m c => m / 2 + c * 0x80) (fun m _ => decide (m % 2 = 1))

/-- INC and DEC on A and on memory (43_shift_incdec.md R165, R166): eight-bit wraparound, N and Z, and no other flag.
Rests on the spec's own decisions D12. -/
def Obligations.IncrementAndDecrement : Prop :=
  RmwOpcodes .inc 0x1A 0xE6 0xF6 0xEE 0xFE ∧ RmwOpcodes .dec 0x3A 0xC6 0xD6 0xCE 0xDE ∧
  RmwRule .inc (fun m _ => m + 1) (fun _ c => c) ∧ RmwRule .dec (fun m _ => m + 255) (fun _ c => c)

/-- INX, INY, DEX and DEY (43_shift_incdec.md R167 to R170). -/
def Obligations.IndexRegistersCount : Prop :=
  (EncOp 0xE8 .inx ∧ EncOp 0xC8 .iny ∧ EncOp 0xCA .dex ∧ EncOp 0x88 .dey) ∧
  CountRule .inx (·.x) (fun s r => { s with x := r }) 1 ∧ CountRule .iny (·.y) (fun s r => { s with y := r }) 1 ∧
  CountRule .dex (·.x) (fun s r => { s with x := r }) 255 ∧ CountRule .dey (·.y) (fun s r => { s with y := r }) 255

/-! Loads, stores, transfers. -/

/-- LDA, LDX and LDY in every form (44_load_store_transfer.md R180 to R182): the operand goes into the register, N and Z
come from it, and nothing else changes. -/
def Obligations.LoadsCopyTheOperand : Prop :=
  AluOpcodes .lda 0xA9 0xA5 0xB5 0xAD 0xBD 0xB9 0xA1 0xB1 0xB2 ∧
  (EncB8 0xA2 (fun b => .ldx (.imm b)) ∧ EncB8 0xA6 (fun b => .ldx (.mem (.zp b))) ∧
    EncB8 0xB6 (fun b => .ldx (.mem (.zpy b))) ∧ EncW16 0xAE (fun w => .ldx (.mem (.abs w))) ∧
    EncW16 0xBE (fun w => .ldx (.mem (.aby w)))) ∧
  (EncB8 0xA0 (fun b => .ldy (.imm b)) ∧ EncB8 0xA4 (fun b => .ldy (.mem (.zp b))) ∧
    EncB8 0xB4 (fun b => .ldy (.mem (.zpx b))) ∧ EncW16 0xAC (fun w => .ldy (.mem (.abs w))) ∧
    EncW16 0xBC (fun w => .ldy (.mem (.abx w)))) ∧
  OperandRule .lda (fun m s t => t = { s with a := m, p := nz m s.p, bus := t.bus }) ∧
  OperandRule .ldx (fun m s t => t = { s with x := m, p := nz m s.p, bus := t.bus }) ∧
  OperandRule .ldy (fun m s t => t = { s with y := m, p := nz m s.p, bus := t.bus })

/-- STA, STX, STY and STZ in every form (44_load_store_transfer.md R183 to R186): one write of the effective address, no
read of it, no flag, and every other byte of memory as before.
Rests on the spec's own decisions D37 and its general knowledge of the stores. -/
def Obligations.StoresWriteOneByte : Prop :=
  (EncB8 0x85 (fun b => .sta (.zp b)) ∧ EncB8 0x95 (fun b => .sta (.zpx b)) ∧ EncW16 0x8D (fun w => .sta (.abs w)) ∧
    EncW16 0x9D (fun w => .sta (.abx w)) ∧ EncW16 0x99 (fun w => .sta (.aby w)) ∧ EncB8 0x81 (fun b => .sta (.zix b)) ∧
    EncB8 0x91 (fun b => .sta (.ziy b)) ∧ EncB8 0x92 (fun b => .sta (.zpi b))) ∧
  (EncB8 0x86 (fun b => .stx (.zp b)) ∧ EncB8 0x96 (fun b => .stx (.zpy b)) ∧ EncW16 0x8E (fun w => .stx (.abs w))) ∧
  (EncB8 0x84 (fun b => .sty (.zp b)) ∧ EncB8 0x94 (fun b => .sty (.zpx b)) ∧ EncW16 0x8C (fun w => .sty (.abs w))) ∧
  (EncB8 0x64 (fun b => .stz (.zp b)) ∧ EncB8 0x74 (fun b => .stz (.zpx b)) ∧ EncW16 0x9C (fun w => .stz (.abs w)) ∧
    EncW16 0x9E (fun w => .stz (.abx w))) ∧
  StoreRule .sta (·.a) ∧ StoreRule .stx (·.x) ∧ StoreRule .sty (·.y) ∧ StoreRule .stz (fun _ => 0x00)

/-- A store into the instruction stream is seen by the next fetch of that address, with no delay
(70_reset_and_hazards.md R404): wherever STA stored in plain memory, a fetch with PC there answers the stored byte. -/
def Obligations.StoreIsSeenByTheNextFetch : Prop :=
  ∀ (m : Addr) (s : State), isDevice s (resolve m s).1 = false →
    ∃ t, exec (.sta m) s = .next t ∧ (fetch8 { t with pc := (resolve m s).1 }).1 = s.a

/-- The transfers (44_load_store_transfer.md R187 to R192): the register is copied, N and Z come from it, but TXS sets no
flag; nothing else changes.
Rests on the spec's own decisions D19. -/
def Obligations.TransfersCopyRegisters : Prop :=
  (EncOp 0xAA .tax ∧ EncOp 0xA8 .tay ∧ EncOp 0x8A .txa ∧ EncOp 0x98 .tya ∧ EncOp 0xBA .tsx ∧ EncOp 0x9A .txs) ∧
  ∀ s : State,
    exec .tax s = .next { s with x := s.a, p := nz s.a s.p } ∧
    exec .tay s = .next { s with y := s.a, p := nz s.a s.p } ∧
    exec .txa s = .next { s with a := s.x, p := nz s.x s.p } ∧
    exec .tya s = .next { s with a := s.y, p := nz s.y s.p } ∧
    exec .tsx s = .next { s with x := s.sp, p := nz s.sp s.p } ∧
    exec .txs s = .next { s with sp := s.x }

/-! Stack and status. -/

/-- The packed status (10_state.md R27, R28): each bit is its flag, bits 5 and 4 are 1 whatever the stored B.
Rests on the spec's own decisions D14 (the bit positions), D15. -/
def Obligations.PackedStatusHoldsTheFlags : Prop :=
  ∀ p : Flags,
    (packP p).toNat.testBit 7 = p.n ∧ (packP p).toNat.testBit 6 = p.v ∧ (packP p).toNat.testBit 5 = true ∧
    (packP p).toNat.testBit 4 = true ∧ (packP p).toNat.testBit 3 = p.d ∧ (packP p).toNat.testBit 2 = p.i ∧
    (packP p).toNat.testBit 1 = p.z ∧ (packP p).toNat.testBit 0 = p.c

/-- PHA, PHP, PHX and PHY (45_stack.md R200, R203 to R207): the byte is written at 0x0100 + SP, SP goes down by one modulo
256, no flag changes, and every other byte of memory reads as before.
Rests on the spec's own decisions D15 and its general knowledge of the instructions. -/
def Obligations.PushesStoreAtTheStackPointer : Prop :=
  (EncOp 0x48 .pha ∧ EncOp 0x08 .php ∧ EncOp 0xDA .phx ∧ EncOp 0x5A .phy) ∧
  PushRule .pha (·.a) ∧ PushRule .php (fun s => packP s.p) ∧ PushRule .phx (·.x) ∧ PushRule .phy (·.y)

/-- PLA, PLX and PLY (45_stack.md R201, R208, R210, R211): SP goes up by one modulo 256, the byte at 0x0100 + SP goes into
the register, N and Z come from it, and nothing else changes.
Rests on the spec's own decisions D19. -/
def Obligations.PullsLoadFromTheStack : Prop :=
  (EncOp 0x68 .pla ∧ EncOp 0xFA .plx ∧ EncOp 0x7A .ply) ∧
  PullRule .pla (fun s v => { s with a := v }) ∧ PullRule .plx (fun s v => { s with x := v }) ∧
  PullRule .ply (fun s v => { s with y := v })

/-- PLP (45_stack.md R209, 10_state.md R29): every flag takes its bit of the pulled byte, bit 5 is discarded, SP goes up by
one modulo 256, and nothing else changes.
Rests on the spec's own decisions D14. -/
def Obligations.PlpSetsEveryFlag : Prop :=
  EncOp 0x28 .plp ∧
  ∀ s : State, ∃ sp' v : Byte, sp'.toNat = (s.sp.toNat + 1) % 256 ∧ v = answer s (stackAt sp') ∧
    exec .plp s = .next { s with sp := sp', p := flagsOf v, bus := .read (stackAt sp') v :: s.bus }

/-- PHP and then PLP, on a stack in plain memory, give back every flag, with B set (10_state.md R28, R29).
Rests on the spec's own decisions D14, D15. -/
def Obligations.PushedStatusPullsBack : Prop :=
  ∀ s : State, isDevice s (stackAt s.sp) = false →
    ∃ t u, exec .php s = .next t ∧ exec .plp t = .next u ∧ u.p = { s.p with b := true } ∧ u.sp = s.sp

/-- Push16 and Pull16 (45_stack.md R202): the high byte is written at 0x0100 + SP and then the low byte below it, SP goes
down by two; Pull16 reads the low byte and then the high one; after a push, in plain memory, it answers the word pushed
and restores SP. -/
def Obligations.PushedWordPullsBack : Prop :=
  (∀ (w : Word) (s : State),
    let hi : Byte := w.extractLsb' 8 8
    let lo : Byte := w.extractLsb' 0 8
    MemoryAfter [(stackAt s.sp, hi), (stackAt (s.sp - 1#8), lo)] s (push16 w s) ∧
    (push16 w s).bus = .write (stackAt (s.sp - 1#8)) lo :: .write (stackAt s.sp) hi :: s.bus ∧
    (push16 w s).sp.toNat = (s.sp.toNat + 254) % 256) ∧
  (∀ s : State, ∃ l h : Byte, (readSeq [stackAt (s.sp + 1#8), stackAt (s.sp + 2#8)] s).1 = [l, h] ∧
    pull16 s = (word h l, { (readSeq [stackAt (s.sp + 1#8), stackAt (s.sp + 2#8)] s).2 with sp := s.sp + 2#8 })) ∧
  (∀ (w : Word) (s : State), isDevice s (stackAt s.sp) = false → isDevice s (stackAt (s.sp - 1#8)) = false →
    (pull16 (push16 w s)).1 = w ∧ (pull16 (push16 w s)).2.sp = s.sp)

/-! Control transfer. -/

/-- The nine branches (46_control_flow.md R220 to R229).
Rests on the spec's own decisions D13. -/
def Obligations.BranchesFollowTheirCondition : Prop :=
  (EncB8 0x90 .bcc ∧ EncB8 0xB0 .bcs ∧ EncB8 0xF0 .beq ∧ EncB8 0xD0 .bne ∧ EncB8 0x30 .bmi ∧ EncB8 0x10 .bpl ∧
    EncB8 0x50 .bvc ∧ EncB8 0x70 .bvs ∧ EncB8 0x80 .bra) ∧
  BranchRule .bcc (·.p.c = false) ∧ BranchRule .bcs (·.p.c = true) ∧ BranchRule .beq (·.p.z = true) ∧
  BranchRule .bne (·.p.z = false) ∧ BranchRule .bmi (·.p.n = true) ∧ BranchRule .bpl (·.p.n = false) ∧
  BranchRule .bvc (·.p.v = false) ∧ BranchRule .bvs (·.p.v = true) ∧ BranchRule .bra (fun _ => True)

/-- JMP in its three forms (46_control_flow.md R230): PC takes the effective address, no access is made to it, and
nothing else changes but for the pointer reads; it goes to the effective address in any other form of an address too.
Rests on the spec's own decisions D11 (no page-wrap bug). -/
def Obligations.JmpGoesToTheEffectiveAddress : Prop :=
  EncW16 0x4C (fun w => .jmp (.abs w)) ∧ EncW16 0x6C (fun w => .jmp (.ind w)) ∧ EncW16 0x7C (fun w => .jmp (.iax w)) ∧
  (∀ (m : Addr) (s : State), ∃ t, exec (.jmp m) s = .next t ∧ KeepsMemory s t ∧
    t = { s with pc := (resolve m s).1, bus := (resolve m s).2.bus }) ∧
  ∀ (w : Word) (s : State),
    exec (.jmp (.abs w)) s = .next { s with pc := w } ∧
    (∃ l h : Byte, (readSeq [w, w + 1#16] s).1 = [l, h] ∧
      exec (.jmp (.ind w)) s = .next { (readSeq [w, w + 1#16] s).2 with pc := word h l }) ∧
    (∃ l h : Byte, let ptr : Word := BitVec.ofNat 16 (w.toNat + s.x.toNat)
      (readSeq [ptr, ptr + 1#16] s).1 = [l, h] ∧
      exec (.jmp (.iax w)) s = .next { (readSeq [ptr, ptr + 1#16] s).2 with pc := word h l })

/-- JSR (46_control_flow.md R231): the address of JSR's last byte is pushed, high byte first, and PC takes the target.
Rests on the spec's own decisions D20. -/
def Obligations.JsrPushesTheReturnAddress : Prop :=
  EncW16 0x20 .jsr ∧
  ∀ (w : Word) (s : State), ∃ t,
    let hi : Byte := (s.pc - 1#16).extractLsb' 8 8
    let lo : Byte := (s.pc - 1#16).extractLsb' 0 8
    exec (.jsr w) s = .next t ∧ MemoryAfter [(stackAt s.sp, hi), (stackAt (s.sp - 1#8), lo)] s t ∧
    t = { s with
      pc := w
      sp := s.sp - 2#8
      mem := t.mem
      bus := .write (stackAt (s.sp - 1#8)) lo :: .write (stackAt s.sp) hi :: s.bus }

/-- RTS (46_control_flow.md R232): PC is one more, modulo 65536, than the word pulled, low byte first.
Rests on the spec's own decisions D20. -/
def Obligations.RtsReturnsPastTheAddress : Prop :=
  EncOp 0x60 .rts ∧
  ∀ s : State, ∃ (l h : Byte) (pc' : Word),
    let at' := [stackAt (s.sp + 1#8), stackAt (s.sp + 2#8)]
    (readSeq at' s).1 = [l, h] ∧ pc'.toNat = (h.toNat * 256 + l.toNat + 1) % 65536 ∧
    exec .rts s = .next { (readSeq at' s).2 with sp := s.sp + 2#8, pc := pc' }

/-- JSR and then RTS, on a stack in plain memory, come back to the instruction after JSR with SP and every register and
flag as before (46_control_flow.md R231, R232).
Rests on the spec's own decisions D20. -/
def Obligations.RtsUndoesJsr : Prop :=
  ∀ (w : Word) (s : State), isDevice s (stackAt s.sp) = false → isDevice s (stackAt (s.sp - 1#8)) = false →
    ∃ t u, exec (.jsr w) s = .next t ∧ exec .rts t = .next u ∧
      u = { s with mem := t.mem, bus := u.bus }

/-- RTI (46_control_flow.md R233): the status is pulled, then PC, low byte first and with no increment; the latches are
unchanged (60_exceptions.md R311).
Rests on the spec's own decisions D14, D21. -/
def Obligations.RtiPullsStatusThenPC : Prop :=
  EncOp 0x40 .rti ∧
  ∀ s : State, ∃ v l h : Byte,
    let at' := [stackAt (s.sp + 1#8), stackAt (s.sp + 2#8), stackAt (s.sp + 3#8)]
    (readSeq at' s).1 = [v, l, h] ∧
    exec .rti s = .next { (readSeq at' s).2 with sp := s.sp + 3#8, p := flagsOf v, pc := word h l }

/-! Interrupts, power states, system instructions. -/

/-- Interrupt entry (60_exceptions.md R304): what is saved, what the flags become, where PC goes; A, X, Y, `halted` and the
request latches are unchanged.
Rests on the spec's own decisions D8, D15, D38 (halted is not changed). -/
def Obligations.InterruptEntrySavesAndVectors : Prop :=
  ∀ (vec : Word) (s : State), EntryRule vec s (interruptEntry vec s)

/-- BRK (47_system.md R240): taken whatever I is, through 0xFFFE, with the stored B set and the BRK address + 2 saved; PC is
the BRK address + 1 when the operation starts, and the signature byte is not read.
Rests on the spec's own decisions D12, D15. -/
def Obligations.BrkEntersThroughTheIrqVector : Prop :=
  (∀ sig rest, decode (0x00 :: sig :: rest) = .ok (.brk, rest)) ∧
  ∀ s : State, ∃ t, exec .brk s = .next t ∧
    EntryRule 0xFFFE { s with pc := s.pc + 1#16, p := { s.p with b := true } } t

/-- RTI undoes an interrupt entry on a stack in plain memory: PC, SP and every flag come back, with B set, and A, X, Y and
the latches are as the entry left them; after BRK it returns to BRK address + 2 (60_exceptions.md R311,
46_control_flow.md R233).
Rests on the spec's own decisions D15, D21. -/
def Obligations.RtiUndoesInterruptEntry : Prop :=
  ∀ (vec : Word) (s : State), isDevice s (stackAt s.sp) = false → isDevice s (stackAt (s.sp - 1#8)) = false →
    isDevice s (stackAt (s.sp - 2#8)) = false →
    (∃ u, exec .rti (interruptEntry vec s) = .next u ∧
      u = { s with suspended := false, p := { s.p with b := true }, mem := (interruptEntry vec s).mem, bus := u.bus }) ∧
    (∃ t u, exec .brk s = .next t ∧ exec .rti t = .next u ∧ u.pc = s.pc + 1#16 ∧ u.sp = s.sp ∧
      u.p = { s.p with b := true })

/-- The boundary (60_exceptions.md R302, R303): a pending NMI is entered whatever I is and its latch consumed; else an IRQ
that is pending and not masked is entered and stays pending; else nothing happens.
Rests on the spec's own decisions D38. -/
def Obligations.BoundaryResolvesNmiThenIrq : Prop :=
  ∀ s : State,
    (s.nmiPending = true → EntryRule 0xFFFA { s with nmiPending := false } (boundary s)) ∧
    (s.nmiPending = false → s.irqPending = true → s.p.i = false → EntryRule 0xFFFE s (boundary s)) ∧
    (s.nmiPending = false → (s.irqPending = false ∨ s.p.i = true) → boundary s = s)

/-- When NMI and IRQ are both pending at the boundary of a step that is not Halted, NMI is serviced and IRQ remains pending:
whatever instruction ran, the step ends with the NMI entry, its latch clear, I set, D clear, not Suspended
(60_exceptions.md R303).
Rests on the spec's own decisions D4, D5, D29 (which steps evaluate the boundary). -/
def Obligations.NmiIsServicedBeforeIrq : Prop :=
  ∀ s t : State, s.halted = false → s.nmiPending = true → step s = .next t →
    (∃ u : State, t = interruptEntry 0xFFFA u) ∧ t.nmiPending = false ∧ t.irqPending = s.irqPending ∧
    t.p.i = true ∧ t.p.d = false ∧ t.suspended = false

/-- The I tested at the boundary is the one after the step's instruction (70_reset_and_hazards.md R405): with an IRQ pending
and no NMI, after the first reset, the step of a CLI enters the IRQ at once, and the step of a SEI does not enter it. -/
def Obligations.MaskChangesActAtTheSameBoundary : Prop :=
  ∀ s : State, s.wasReset = true → s.halted = false → s.suspended = false → s.nmiPending = false → s.irqPending = true →
    let f := (fetchInstr s).2
    ((fetchInstr s).1 = .cli → ∃ t, step s = .next t ∧ EntryRule 0xFFFE { f with p := { f.p with i := false } } t) ∧
    ((fetchInstr s).1 = .sei → step s = .next { f with p := { f.p with i := true } })

/-- WAI and STP (47_system.md R241, R242): each sets its latch and changes nothing else, with no transaction. -/
def Obligations.WaiSuspendsAndStpHalts : Prop :=
  EncOp 0xCB .wai ∧ EncOp 0xDB .stp ∧
  ∀ s : State, exec .wai s = .next { s with suspended := true } ∧ exec .stp s = .next { s with halted := true }

/-- NOP and the flag instructions (47_system.md R243 to R250): each writes its one flag and changes nothing else. -/
def Obligations.FlagInstructionsWriteOneFlag : Prop :=
  (EncOp 0xEA .nop ∧ EncOp 0x18 .clc ∧ EncOp 0x38 .sec ∧ EncOp 0x58 .cli ∧ EncOp 0x78 .sei ∧ EncOp 0xD8 .cld ∧
    EncOp 0xF8 .sed ∧ EncOp 0xB8 .clv) ∧
  ∀ s : State,
    exec .nop s = .next s ∧
    exec .clc s = .next { s with p := { s.p with c := false } } ∧
    exec .sec s = .next { s with p := { s.p with c := true } } ∧
    exec .cli s = .next { s with p := { s.p with i := false } } ∧
    exec .sei s = .next { s with p := { s.p with i := true } } ∧
    exec .cld s = .next { s with p := { s.p with d := false } } ∧
    exec .sed s = .next { s with p := { s.p with d := true } } ∧
    exec .clv s = .next { s with p := { s.p with v := false } }

/-- An undefined opcode (47_system.md R251, 60_exceptions.md R307): under NOP1 nothing happens beyond the fetch; under FAULT
a Running step that fetches it ends with the fault, PC one past it, nothing else changed and no boundary evaluated.
Rests on the spec's own decisions D7, D34. -/
def Obligations.UndefinedOpcodeFollowsThePolicy : Prop :=
  (∀ (op : Byte) (s : State), s.params.undefPolicy = .nop1 → exec (.undef op) s = .next s) ∧
  (∀ s : State, s.params.undefPolicy = .fault → s.wasReset = true → s.halted = false → s.suspended = false →
    (fetch8 s).1 ∈ undefinedOpcodes →
    step s = .fault (.undefinedOpcode (fetch8 s).1 s.pc
      { s with pc := s.pc + 1#16, bus := .read s.pc (answer s s.pc) :: s.bus }))

/-! The host's inputs. -/

/-- Reset (70_reset_and_hazards.md R400, 10_state.md R38): the value of every piece of state after both forms, and its two
transactions.
That a reset has been called (`wasReset`) is a field of the model's own (log 8).
Rests on the spec's own decisions D22, D23 (what a reset leaves unchanged). -/
def Obligations.ResetGivesTheListedValues : Prop :=
  ∀ s : State, ∃ l h : Byte,
    let vector := readSeq [0xFFFC, 0xFFFD] s
    vector.1 = [l, h] ∧
    transition (.reset true) s = .next { s with
      pc := word h l
      p := { s.p with d := false, i := true }
      suspended := false
      halted := false
      wasReset := true
      bus := vector.2.bus } ∧
    transition (.reset false) s = .next { s with
      a := 0x00
      x := 0x00
      y := 0x00
      sp := 0xFF
      pc := word h l
      p := { n := false, v := false, b := false, d := false, i := true, z := true, c := false }
      suspended := false
      halted := false
      wasReset := true
      bus := vector.2.bus }

/-- The four signal inputs (60_exceptions.md R313 to R316): each sets or clears its one latch or flag in every power state;
raising an NMI again while it is pending changes nothing.
Rests on the spec's own decisions D25 (setOverflow in every power state). -/
def Obligations.HostSignalsSetTheirLatch : Prop :=
  ∀ s : State,
    transition .raiseIRQ s = .next { s with irqPending := true } ∧
    transition .lowerIRQ s = .next { s with irqPending := false } ∧
    transition .raiseNMI s = .next { s with nmiPending := true } ∧
    (s.nmiPending = true → transition .raiseNMI s = .next s) ∧
    transition .setOverflow s = .next { s with p := { s.p with v := true } }

/-! Whole-machine rules. -/

/-- The state after reset is Running (70_reset_and_hazards.md R400) and meets the invariant (10_state.md R35,
R38).  That its memory lists nothing is the model's choice (log 4). -/
def Obligations.ResetIsSound : Prop := Sound State.reset ∧ powerState State.reset = some .running

/-- Every step keeps the invariant: at most one of `suspended` and `halted` is set (10_state.md R35), and memory keeps its
canonical form. -/
def Obligations.StepKeepsSound : Prop := ∀ s t : State, Sound s → step s = .next t → Sound t

/-- Every run of host inputs keeps the invariant (10_state.md R35; 60_exceptions.md R317).
Rests on the spec's own decisions D2 (host inputs act between steps). -/
def Obligations.EveryRunKeepsSound : Prop :=
  ∀ (inputs : List HostInput) (s t : State), Sound s → runInputs inputs s = .next t → Sound t

/-- Memory changes only by the write transactions of the step: the transactions made so far only grow, and a byte that no
new write addresses reads as before (20_memory.md R57, R62).  That the device windows and the parameters stand in State and
that no step changes them is the model's choice (log 2, log 5).
Rests on the spec's own decisions D12, D36. -/
def Obligations.MemoryChangesOnlyByBusWrites : Prop :=
  ∀ s t : State, step s = .next t →
    t.devices = s.devices ∧ t.params = s.params ∧
    ∃ new, t.bus = new ++ s.bus ∧ ∀ addr, (∀ v, BusEvent.write addr v ∉ new) → peek t addr = peek s addr

/-- Every instruction makes exactly as many reads and writes as its rule lists, beyond its fetch (20_memory.md R56, R57).
Rests on the spec's own decisions D12, D33. -/
def Obligations.InstructionsMakeTheListedTransactions : Prop :=
  ∀ (i : Instr) (s t : State), exec i s = .next t →
    ∃ new, t.bus = new ++ s.bus ∧ new.countP isRead = readsOf i ∧ new.countP isWrite = writesOf i

/-- An instruction that does not store leaves every byte of memory as it was (20_memory.md R56).
Rests on the spec's own decisions D12. -/
def Obligations.OnlyStoringInstructionsChangeMemory : Prop :=
  ∀ (i : Instr) (s t : State), exec i s = .next t → writesOf i = 0 → t.mem = s.mem ∧ ∀ addr, peek t addr = peek s addr

/-- A flag is written only by the instructions of the table of 10_state.md R26. -/
def Obligations.FlagsAreWrittenOnlyByTheListed : Prop :=
  ∀ (i : Instr) (s t : State), exec i s = .next t →
    (writesN i = false → t.p.n = s.p.n) ∧ (writesV i = false → t.p.v = s.p.v) ∧ (writesB i = false → t.p.b = s.p.b) ∧
    (writesD i = false → t.p.d = s.p.d) ∧ (writesI i = false → t.p.i = s.p.i) ∧ (writesZ i = false → t.p.z = s.p.z) ∧
    (writesC i = false → t.p.c = s.p.c)

/-- A register is written only by the instructions of the table of 10_state.md R20 (PC beyond the fetch: R24). -/
def Obligations.RegistersAreWrittenOnlyByTheListed : Prop :=
  ∀ (i : Instr) (s t : State), exec i s = .next t →
    (writesA i = false → t.a = s.a) ∧ (writesX i = false → t.x = s.x) ∧ (writesY i = false → t.y = s.y) ∧
    (writesSP i = false → t.sp = s.sp) ∧ (writesPC i = false → t.pc = s.pc)

/-- `irqPending` is set by `raiseIRQ`, cleared by `lowerIRQ` and changed by nothing else; `nmiPending` is set by `raiseNMI`,
which changes nothing while it is set, and is cleared only by a step that services the NMI (10_state.md R33, R34). -/
def Obligations.RequestLatchesChangeAsListed : Prop :=
  (∀ s : State, (raiseIRQ s).irqPending = true ∧ (lowerIRQ s).irqPending = false ∧ (raiseNMI s).nmiPending = true ∧
    (s.nmiPending = true → raiseNMI s = s)) ∧
  ∀ (h : HostInput) (s t : State), transition h s = .next t →
    (h ≠ .raiseIRQ → h ≠ .lowerIRQ → t.irqPending = s.irqPending) ∧
    (s.nmiPending = false → t.nmiPending = true → h = .raiseNMI) ∧
    (s.nmiPending = true → t.nmiPending = false → h = .step ∧
      ∃ u : State, u.nmiPending = true ∧ t = interruptEntry 0xFFFA { u with nmiPending := false })

/-- The latches `suspended` and `halted` (10_state.md R31, R32): WAI sets the first and STP the second, and no other input or
instruction sets either; every interrupt entry clears `suspended`, every reset clears both, and nothing else does.  While
`suspended` is set a step fetches no instruction, and while `halted` is set a step has no effect at all. -/
def Obligations.PowerStatesChangeAsListed : Prop :=
  (∀ s : State, exec .wai s = .next { s with suspended := true } ∧ exec .stp s = .next { s with halted := true }) ∧
  (∀ (vec : Word) (s : State), (interruptEntry vec s).suspended = false) ∧
  (∀ (faithful : Bool) (s : State),
    (hostReset faithful s).suspended = false ∧ (hostReset faithful s).halted = false) ∧
  ∀ (h : HostInput) (s t : State), transition h s = .next t →
    (s.suspended = false → t.suspended = true → h = .step ∧ s.halted = false ∧ (fetchInstr s).1 = .wai) ∧
    (s.halted = false → t.halted = true → h = .step ∧ s.suspended = false ∧ (fetchInstr s).1 = .stp) ∧
    (s.halted = true → t.halted = false → ∃ faithful, h = .reset faithful) ∧
    (s.suspended = true → t.suspended = false → (∃ faithful, h = .reset faithful) ∨
      (h = .step ∧ s.nmiPending = true ∧ t = interruptEntry 0xFFFA { s with nmiPending := false }) ∨
      (h = .step ∧ s.nmiPending = false ∧ s.irqPending = true ∧ s.p.i = false ∧ t = interruptEntry 0xFFFE s)) ∧
    (h = .step → s.halted = true → t = s) ∧
    (h = .step → s.halted = false → s.suspended = true → t = boundary s)
end

