-- ==== Sys2Proof/Laws/Flags.lean ====
section
/-! SUPPORT. The bit-level definitions of Bits and Flags as facts of arithmetic. -/

namespace Sys2Proof.Machine

@[simp] theorem b2i_eq_toNat (f : Bool) : b2i f = f.toNat := by cases f <;> rfl

theorem bit_eq_testBit (v : Byte) (k : Nat) : bit v k = v.toNat.testBit k := rfl

/-- Bit 7 is the sign: the byte is 0x80 or more. -/
theorem bit7_eq (v : Byte) : bit v 7 = decide (0x80 ≤ v.toNat) := by
  have h : bit v 7 = v.msb := by simp [bit, BitVec.msb_eq_getLsbD_last]
  rw [h, BitVec.msb_eq_decide]

theorem bit0_eq (v : Byte) : bit v 0 = decide (v.toNat % 2 = 1) := by
  simp [bit, BitVec.getLsbD, Nat.testBit_zero]

/-- `SetNZ` in arithmetic (00_scope.md R12). -/
theorem setNZ_eq (v : Byte) (p : Flags) :
    setNZ v p = { p with n := decide (0x80 ≤ v.toNat), z := decide (v.toNat = 0) } := by
  have hz : (v == 0x00) = decide (v.toNat = 0) := by
    rw [Bool.eq_iff_iff, beq_iff_eq, decide_eq_true_iff]
    exact ⟨fun h => by simp [h], fun h => BitVec.eq_of_toNat_eq h⟩
  simp only [setNZ, bit7_eq, hz]

/-- The overflow test in arithmetic (41_arithmetic.md R121): the operands share their sign and the result has the other. -/
theorem overflow_eq (a m r : Byte) :
    overflow a m r = decide ((0x80 ≤ a.toNat ↔ 0x80 ≤ m.toNat) ∧ ¬(0x80 ≤ r.toNat ↔ 0x80 ≤ a.toNat)) := by
  have mask (w : Byte) : ((w &&& 0x80) != 0x00) = bit w 7 := by
    have h := BitVec.and_twoPow w 7
    rw [show BitVec.twoPow 8 7 = (0x80 : Byte) from rfl] at h
    rw [h, bit]
    cases w.getLsbD 7 <;> rfl
  have key : overflow a m r = ((bit a 7 ^^ bit r 7) && (bit m 7 ^^ bit r 7)) := by
    rw [overflow, mask]
    simp [bit]
  rw [key, bit7_eq, bit7_eq, bit7_eq, Bool.eq_iff_iff]
  simp only [Bool.and_eq_true, bne_iff_ne, ne_eq, decide_eq_true_eq, decide_eq_decide]
  tauto

/-- A word is its two bytes (00_scope.md R9). -/
@[simp] theorem mkWord_hi_lo (w : Word) : mkWord (hiByte w) (loByte w) = w := by
  apply BitVec.eq_of_toNat_eq
  have := w.isLt
  simp only [mkWord, hiByte, loByte, BitVec.toNat_ofNat]
  omega

theorem mkWord_toNat (h l : Byte) : (mkWord h l).toNat = h.toNat * 256 + l.toNat := by
  have := h.isLt
  have := l.isLt
  simp only [mkWord, BitVec.toNat_ofNat]
  omega

@[simp] theorem loByte_mkWord (h l : Byte) : loByte (mkWord h l) = l := by
  apply BitVec.eq_of_toNat_eq
  have := l.isLt
  simp only [loByte, mkWord_toNat, BitVec.toNat_ofNat]
  omega

@[simp] theorem hiByte_mkWord (h l : Byte) : hiByte (mkWord h l) = h := by
  apply BitVec.eq_of_toNat_eq
  have := h.isLt
  have := l.isLt
  simp only [hiByte, mkWord_toNat, BitVec.toNat_ofNat]
  omega

@[simp] theorem zext16_toNat (v : Byte) : (zext16 v).toNat = v.toNat := by
  simp only [zext16, BitVec.toNat_setWidth]
  have := v.isLt
  omega

/-- The status pulled after a push is the status pushed, with `B` set (10_state.md R28, R29). -/
theorem packP_bit (p : Flags) (k : Nat) (hk : k < 8) :
    bit (packP p) k = [p.c, p.z, p.i, p.d, true, true, p.v, p.n].getD k false := by
  have all : ∀ n v d i z c : Bool, ∀ j : Fin 8,
      bit (BitVec.ofNat 8 (b2i n * 0x80 + b2i v * 0x40 + 0x20 + 0x10 + b2i d * 0x08 + b2i i * 0x04 + b2i z * 0x02 +
        b2i c * 0x01)) j.val = [c, z, i, d, true, true, v, n].getD j.val false := by decide
  exact all p.n p.v p.d p.i p.z p.c ⟨k, hk⟩

end Sys2Proof.Machine
end

