-- ==== Sys2Proof/Laws/Memory.lean ====
section
/-! SUPPORT. The laws of plain memory: a byte written is read back, every other byte reads as before, and a write keeps
the canonical form.  The first two hold of every list, canonical or not. -/

namespace Sys2Proof.Machine

@[simp] theorem Memory.get_nil (a : Nat) : Memory.get [] a = Memory.unlisted := rfl

theorem Memory.get_erase_same (m : Memory) (a : Nat) : Memory.get (Memory.erase m a) a = Memory.unlisted := by
  induction m with
  | nil => rfl
  | cons c m ih =>
    unfold Memory.erase at ih ⊢
    by_cases h : c.1 = a <;> simp_all [Memory.get]

theorem Memory.get_erase_other (m : Memory) (a b : Nat) (h : b ≠ a) : Memory.get (Memory.erase m a) b = Memory.get m b := by
  induction m with
  | nil => rfl
  | cons c m ih =>
    unfold Memory.erase at ih ⊢
    by_cases hc : c.1 = a
    · have hb : ¬c.1 = b := fun e => h (e.symm.trans hc)
      simp_all [Memory.get]
    · simp_all [Memory.get]

theorem Memory.get_insert_same (m : Memory) (a : Nat) (v : Byte) (h : ∀ c ∈ m, c.1 ≠ a) :
    Memory.get (Memory.insert m a v) a = v := by
  induction m with
  | nil => simp [Memory.insert, Memory.get]
  | cons c m ih =>
    have hc : c.1 ≠ a := h c (by simp)
    have ih := ih fun d hd => h d (by simp [hd])
    simp only [Memory.insert]
    split <;> simp_all [Memory.get]

theorem Memory.get_insert_other (m : Memory) (a b : Nat) (v : Byte) (h : b ≠ a) :
    Memory.get (Memory.insert m a v) b = Memory.get m b := by
  induction m with
  | nil => simp [Memory.insert, Memory.get, Ne.symm h]
  | cons c m ih =>
    simp only [Memory.insert]
    split <;> simp_all [Memory.get, Ne.symm h]

theorem Memory.erase_keys (m : Memory) (a : Nat) : ∀ c ∈ Memory.erase m a, c.1 ≠ a := by
  intro c hc
  simpa [Memory.erase] using (List.mem_filter.1 hc).2

/-- Read after write at the same address. -/
@[simp] theorem Memory.get_set_same (m : Memory) (a : Nat) (v : Byte) : Memory.get (Memory.set m a v) a = v := by
  unfold Memory.set
  split
  · rename_i h
    rw [Memory.get_erase_same, h]
  · exact Memory.get_insert_same _ _ _ (Memory.erase_keys m a)

/-- A write leaves every other address alone. -/
theorem Memory.get_set_other (m : Memory) (a b : Nat) (v : Byte) (h : b ≠ a) :
    Memory.get (Memory.set m a v) b = Memory.get m b := by
  unfold Memory.set
  split
  · exact Memory.get_erase_other _ _ _ h
  · rw [Memory.get_insert_other _ _ _ _ h, Memory.get_erase_other _ _ _ h]

@[simp] theorem Memory.wf_nil : Memory.wf [] := by simp [Memory.wf]

theorem Memory.erase_wf (m : Memory) (a : Nat) (h : Memory.wf m) : Memory.wf (Memory.erase m a) :=
  ⟨h.1.filter _, fun c hc => h.2 c (List.mem_filter.1 hc).1⟩

theorem Memory.mem_insert (m : Memory) (a : Nat) (v : Byte) (c : Host.Cell) (hc : c ∈ Memory.insert m a v) :
    c = (a, v) ∨ c ∈ m := by
  induction m with
  | nil => simpa [Memory.insert] using hc
  | cons d m ih =>
    simp only [Memory.insert] at hc
    split at hc <;> simp only [List.mem_cons] at hc ⊢
    · tauto
    · rcases hc with rfl | hc
      · exact .inr (.inl rfl)
      · rcases ih hc with h | h
        · exact .inl h
        · exact .inr (.inr h)

theorem Memory.insert_pairwise (m : Memory) (a : Nat) (v : Byte) (hm : m.Pairwise fun c d => c.1 < d.1)
    (ha : ∀ c ∈ m, c.1 ≠ a) : (Memory.insert m a v).Pairwise fun c d => c.1 < d.1 := by
  induction m with
  | nil => simp [Memory.insert]
  | cons d m ih =>
    rw [List.pairwise_cons] at hm
    simp only [Memory.insert]
    split
    · rename_i h
      refine List.pairwise_cons.2 ⟨?_, List.pairwise_cons.2 hm⟩
      intro c hc
      rcases List.mem_cons.1 hc with rfl | hc
      · exact h
      · exact Nat.lt_trans h (hm.1 c hc)
    · rename_i h
      refine List.pairwise_cons.2 ⟨?_, ih hm.2 fun c hc => ha c (by simp [hc])⟩
      intro c hc
      rcases Memory.mem_insert _ _ _ _ hc with rfl | hc
      · have := ha d (by simp)
        show d.1 < a
        omega
      · exact hm.1 c hc

/-- A write inside the address space keeps the canonical form. -/
theorem Memory.set_wf (m : Memory) (a : Nat) (v : Byte) (ha : a < 65536) (h : Memory.wf m) : Memory.wf (Memory.set m a v) := by
  have he := Memory.erase_wf m a h
  unfold Memory.set
  split
  · exact he
  · rename_i hv
    refine ⟨Memory.insert_pairwise _ _ _ he.1 (Memory.erase_keys m a), fun c hc => ?_⟩
    rcases Memory.mem_insert _ _ _ _ hc with rfl | hc
    · exact ⟨hv, ha⟩
    · exact he.2 c hc

end Sys2Proof.Machine
end

