-- ==== Sys2Proof/Laws/State.lean ====
section
/-! SUPPORT. One lemma for each field of State and each basic update of it (a bus read, a bus write, a fetch, a push, a
pull), so that no proof unfolds a record update. -/

namespace Sys2Proof.Machine

variable (s : State)

@[simp] theorem busRead_fst (addr : Word) : (busRead addr s).1 = answer s addr := rfl
@[simp] theorem busRead_a (addr : Word) : (busRead addr s).2.a = s.a := rfl
@[simp] theorem busRead_x (addr : Word) : (busRead addr s).2.x = s.x := rfl
@[simp] theorem busRead_y (addr : Word) : (busRead addr s).2.y = s.y := rfl
@[simp] theorem busRead_sp (addr : Word) : (busRead addr s).2.sp = s.sp := rfl
@[simp] theorem busRead_pc (addr : Word) : (busRead addr s).2.pc = s.pc := rfl
@[simp] theorem busRead_p (addr : Word) : (busRead addr s).2.p = s.p := rfl
@[simp] theorem busRead_suspended (addr : Word) : (busRead addr s).2.suspended = s.suspended := rfl
@[simp] theorem busRead_halted (addr : Word) : (busRead addr s).2.halted = s.halted := rfl
@[simp] theorem busRead_irqPending (addr : Word) : (busRead addr s).2.irqPending = s.irqPending := rfl
@[simp] theorem busRead_nmiPending (addr : Word) : (busRead addr s).2.nmiPending = s.nmiPending := rfl
@[simp] theorem busRead_mem (addr : Word) : (busRead addr s).2.mem = s.mem := rfl
@[simp] theorem busRead_devices (addr : Word) : (busRead addr s).2.devices = s.devices := rfl
@[simp] theorem busRead_params (addr : Word) : (busRead addr s).2.params = s.params := rfl
@[simp] theorem busRead_wasReset (addr : Word) : (busRead addr s).2.wasReset = s.wasReset := rfl
@[simp] theorem busRead_bus (addr : Word) : (busRead addr s).2.bus = .read addr (answer s addr) :: s.bus := rfl

@[simp] theorem busWrite_a (addr : Word) (v : Byte) : (busWrite addr v s).a = s.a := rfl
@[simp] theorem busWrite_x (addr : Word) (v : Byte) : (busWrite addr v s).x = s.x := rfl
@[simp] theorem busWrite_y (addr : Word) (v : Byte) : (busWrite addr v s).y = s.y := rfl
@[simp] theorem busWrite_sp (addr : Word) (v : Byte) : (busWrite addr v s).sp = s.sp := rfl
@[simp] theorem busWrite_pc (addr : Word) (v : Byte) : (busWrite addr v s).pc = s.pc := rfl
@[simp] theorem busWrite_p (addr : Word) (v : Byte) : (busWrite addr v s).p = s.p := rfl
@[simp] theorem busWrite_suspended (addr : Word) (v : Byte) : (busWrite addr v s).suspended = s.suspended := rfl
@[simp] theorem busWrite_halted (addr : Word) (v : Byte) : (busWrite addr v s).halted = s.halted := rfl
@[simp] theorem busWrite_irqPending (addr : Word) (v : Byte) : (busWrite addr v s).irqPending = s.irqPending := rfl
@[simp] theorem busWrite_nmiPending (addr : Word) (v : Byte) : (busWrite addr v s).nmiPending = s.nmiPending := rfl
@[simp] theorem busWrite_mem (addr : Word) (v : Byte) : (busWrite addr v s).mem = if isDevice s addr then s.mem else Memory.set s.mem addr.toNat v := rfl
@[simp] theorem busWrite_devices (addr : Word) (v : Byte) : (busWrite addr v s).devices = s.devices := rfl
@[simp] theorem busWrite_params (addr : Word) (v : Byte) : (busWrite addr v s).params = s.params := rfl
@[simp] theorem busWrite_wasReset (addr : Word) (v : Byte) : (busWrite addr v s).wasReset = s.wasReset := rfl
@[simp] theorem busWrite_bus (addr : Word) (v : Byte) : (busWrite addr v s).bus = .write addr v :: s.bus := rfl

@[simp] theorem fetch8_fst : (fetch8 s).1 = answer s s.pc := rfl
@[simp] theorem fetch8_a : (fetch8 s).2.a = s.a := rfl
@[simp] theorem fetch8_x : (fetch8 s).2.x = s.x := rfl
@[simp] theorem fetch8_y : (fetch8 s).2.y = s.y := rfl
@[simp] theorem fetch8_sp : (fetch8 s).2.sp = s.sp := rfl
@[simp] theorem fetch8_pc : (fetch8 s).2.pc = s.pc + 1#16 := rfl
@[simp] theorem fetch8_p : (fetch8 s).2.p = s.p := rfl
@[simp] theorem fetch8_suspended : (fetch8 s).2.suspended = s.suspended := rfl
@[simp] theorem fetch8_halted : (fetch8 s).2.halted = s.halted := rfl
@[simp] theorem fetch8_irqPending : (fetch8 s).2.irqPending = s.irqPending := rfl
@[simp] theorem fetch8_nmiPending : (fetch8 s).2.nmiPending = s.nmiPending := rfl
@[simp] theorem fetch8_mem : (fetch8 s).2.mem = s.mem := rfl
@[simp] theorem fetch8_devices : (fetch8 s).2.devices = s.devices := rfl
@[simp] theorem fetch8_params : (fetch8 s).2.params = s.params := rfl
@[simp] theorem fetch8_wasReset : (fetch8 s).2.wasReset = s.wasReset := rfl
@[simp] theorem fetch8_bus : (fetch8 s).2.bus = .read s.pc (answer s s.pc) :: s.bus := rfl

@[simp] theorem push8_a (v : Byte) : (push8 v s).a = s.a := rfl
@[simp] theorem push8_x (v : Byte) : (push8 v s).x = s.x := rfl
@[simp] theorem push8_y (v : Byte) : (push8 v s).y = s.y := rfl
@[simp] theorem push8_sp (v : Byte) : (push8 v s).sp = s.sp - 1#8 := rfl
@[simp] theorem push8_pc (v : Byte) : (push8 v s).pc = s.pc := rfl
@[simp] theorem push8_p (v : Byte) : (push8 v s).p = s.p := rfl
@[simp] theorem push8_suspended (v : Byte) : (push8 v s).suspended = s.suspended := rfl
@[simp] theorem push8_halted (v : Byte) : (push8 v s).halted = s.halted := rfl
@[simp] theorem push8_irqPending (v : Byte) : (push8 v s).irqPending = s.irqPending := rfl
@[simp] theorem push8_nmiPending (v : Byte) : (push8 v s).nmiPending = s.nmiPending := rfl
@[simp] theorem push8_mem (v : Byte) : (push8 v s).mem = (busWrite (stackAddr s.sp) v s).mem := rfl
@[simp] theorem push8_devices (v : Byte) : (push8 v s).devices = s.devices := rfl
@[simp] theorem push8_params (v : Byte) : (push8 v s).params = s.params := rfl
@[simp] theorem push8_wasReset (v : Byte) : (push8 v s).wasReset = s.wasReset := rfl
@[simp] theorem push8_bus (v : Byte) : (push8 v s).bus = .write (stackAddr s.sp) v :: s.bus := rfl

@[simp] theorem pull8_fst : (pull8 s).1 = answer s (stackAddr (s.sp + 1#8)) := rfl
@[simp] theorem pull8_a : (pull8 s).2.a = s.a := rfl
@[simp] theorem pull8_x : (pull8 s).2.x = s.x := rfl
@[simp] theorem pull8_y : (pull8 s).2.y = s.y := rfl
@[simp] theorem pull8_sp : (pull8 s).2.sp = s.sp + 1#8 := rfl
@[simp] theorem pull8_pc : (pull8 s).2.pc = s.pc := rfl
@[simp] theorem pull8_p : (pull8 s).2.p = s.p := rfl
@[simp] theorem pull8_suspended : (pull8 s).2.suspended = s.suspended := rfl
@[simp] theorem pull8_halted : (pull8 s).2.halted = s.halted := rfl
@[simp] theorem pull8_irqPending : (pull8 s).2.irqPending = s.irqPending := rfl
@[simp] theorem pull8_nmiPending : (pull8 s).2.nmiPending = s.nmiPending := rfl
@[simp] theorem pull8_mem : (pull8 s).2.mem = s.mem := rfl
@[simp] theorem pull8_devices : (pull8 s).2.devices = s.devices := rfl
@[simp] theorem pull8_params : (pull8 s).2.params = s.params := rfl
@[simp] theorem pull8_wasReset : (pull8 s).2.wasReset = s.wasReset := rfl
@[simp] theorem pull8_bus : (pull8 s).2.bus = .read (stackAddr (s.sp + 1#8)) (answer s (stackAddr (s.sp + 1#8))) :: s.bus := rfl

end Sys2Proof.Machine
end

