-- ==== Sys2Proof/Laws/Ops.lean ====
section
/-! SUPPORT. One lemma for each shared operation that says everything it can do: which parts of the state it leaves
alone, what it puts in memory and on the bus. -/

namespace Sys2Proof.Machine

/-! What the bus supplies depends on memory, the device windows and the transactions so far, and on nothing else. -/

theorem isDevice_congr {s t : State} (h : t.devices = s.devices) (addr : Word) : isDevice t addr = isDevice s addr := by
  simp only [isDevice, h]

theorem peek_congr {s t : State} (h : t.mem = s.mem) (addr : Word) : peek t addr = peek s addr := by
  simp only [peek, h]

theorem answer_congr {s t : State} (hd : t.devices = s.devices) (hm : t.mem = s.mem) (hb : t.bus = s.bus) (addr : Word) :
    answer t addr = answer s addr := by
  simp only [answer, isDevice_congr hd, peek_congr hm, hb]

/-- A read of plain memory answers the byte it holds (20_memory.md R62). -/
theorem answer_plain {s : State} {addr : Word} (h : isDevice s addr = false) : answer s addr = peek s addr := by
  simp [answer, h]

@[simp] theorem isDevice_busRead (s : State) (a b : Word) : isDevice (busRead a s).2 b = isDevice s b := rfl
@[simp] theorem isDevice_busWrite (s : State) (a b : Word) (v : Byte) : isDevice (busWrite a v s) b = isDevice s b := rfl
@[simp] theorem isDevice_push8 (s : State) (b : Word) (v : Byte) : isDevice (push8 v s) b = isDevice s b := rfl
@[simp] theorem isDevice_pull8 (s : State) (b : Word) : isDevice (pull8 s).2 b = isDevice s b := rfl
@[simp] theorem peek_busRead (s : State) (a b : Word) : peek (busRead a s).2 b = peek s b := rfl
@[simp] theorem peek_pull8 (s : State) (b : Word) : peek (pull8 s).2 b = peek s b := rfl

/-- A write, seen byte by byte: it lands at its address unless a device answers there, and nowhere else. -/
theorem peek_busWrite (s : State) (a b : Word) (v : Byte) :
    peek (busWrite a v s) b = if b = a ∧ isDevice s a = false then v else peek s b := by
  simp only [peek, busWrite_mem]
  by_cases hd : isDevice s a = true
  · simp [hd]
  · simp only [hd, Bool.false_eq_true, if_false]
    by_cases h : b = a
    · subst h
      simp
    · rw [Memory.get_set_other _ _ _ _ fun e => h (BitVec.eq_of_toNat_eq e)]
      simp [h]

/-- A write keeps the canonical form of memory. -/
theorem busWrite_wf (s : State) (a : Word) (v : Byte) (h : Memory.wf s.mem) : Memory.wf (busWrite a v s).mem := by
  rw [busWrite_mem]
  split
  · exact h
  · exact Memory.set_wf _ _ _ a.isLt h

/-! The stack page (10_state.md R22). -/

theorem stackAddr_toNat (sp : Byte) : (stackAddr sp).toNat = 0x100 + sp.toNat := by
  have := sp.isLt
  simp only [stackAddr, BitVec.toNat_add, zext16_toNat, show (0x0100 : Word).toNat = 256 from rfl]
  omega

theorem stackAddr_inj {m n : Byte} : stackAddr m = stackAddr n ↔ m = n := by
  refine ⟨fun h => BitVec.eq_of_toNat_eq ?_, fun h => by rw [h]⟩
  have := congrArg BitVec.toNat h
  rw [stackAddr_toNat, stackAddr_toNat] at this
  omega

theorem peek_push8 (s : State) (b : Word) (v : Byte) :
    peek (push8 v s) b = if b = stackAddr s.sp ∧ isDevice s (stackAddr s.sp) = false then v else peek s b :=
  peek_busWrite s (stackAddr s.sp) b v

theorem push8_wf (s : State) (v : Byte) (h : Memory.wf s.mem) : Memory.wf (push8 v s).mem :=
  busWrite_wf s _ v h

/-! Word reads: two transactions, the rest of the state unchanged. -/

theorem memRead16_eq (addr : Word) (s : State) :
    memRead16 addr s =
      (mkWord (answer (busRead addr s).2 (addr + 1#16)) (answer s addr),
        { s with bus := .read (addr + 1#16) (answer (busRead addr s).2 (addr + 1#16)) :: .read addr (answer s addr) :: s.bus }) :=
  rfl

theorem memRead16_reads (addr : Word) (s : State) :
    ∃ l h : Byte, (memRead16 addr s).1 = mkWord h l ∧
      (memRead16 addr s).2.bus = .read (addr + 1#16) h :: .read addr l :: s.bus := ⟨_, _, rfl, rfl⟩

theorem zpRead16_eq (ptr : Byte) (s : State) :
    zpRead16 ptr s =
      (mkWord (answer (busRead (zext16 ptr) s).2 (zpPtrHigh s.params.zpPtrWrap ptr)) (answer s (zext16 ptr)),
        { s with bus := .read (zpPtrHigh s.params.zpPtrWrap ptr)
                          (answer (busRead (zext16 ptr) s).2 (zpPtrHigh s.params.zpPtrWrap ptr)) ::
                        .read (zext16 ptr) (answer s (zext16 ptr)) :: s.bus }) :=
  rfl

/-- A resolver changes nothing but the record of transactions. -/
theorem resolve_snd (m : Addr) (s : State) : (resolve m s).2 = { s with bus := (resolve m s).2.bus } := by
  cases m <;> rfl

@[simp] theorem resolve_a (m : Addr) (s : State) : (resolve m s).2.a = s.a := by rw [resolve_snd]
@[simp] theorem resolve_x (m : Addr) (s : State) : (resolve m s).2.x = s.x := by rw [resolve_snd]
@[simp] theorem resolve_y (m : Addr) (s : State) : (resolve m s).2.y = s.y := by rw [resolve_snd]
@[simp] theorem resolve_sp (m : Addr) (s : State) : (resolve m s).2.sp = s.sp := by rw [resolve_snd]
@[simp] theorem resolve_pc (m : Addr) (s : State) : (resolve m s).2.pc = s.pc := by rw [resolve_snd]
@[simp] theorem resolve_p (m : Addr) (s : State) : (resolve m s).2.p = s.p := by rw [resolve_snd]
@[simp] theorem resolve_suspended (m : Addr) (s : State) : (resolve m s).2.suspended = s.suspended := by rw [resolve_snd]
@[simp] theorem resolve_halted (m : Addr) (s : State) : (resolve m s).2.halted = s.halted := by rw [resolve_snd]
@[simp] theorem resolve_irqPending (m : Addr) (s : State) : (resolve m s).2.irqPending = s.irqPending := by rw [resolve_snd]
@[simp] theorem resolve_nmiPending (m : Addr) (s : State) : (resolve m s).2.nmiPending = s.nmiPending := by rw [resolve_snd]
@[simp] theorem resolve_mem (m : Addr) (s : State) : (resolve m s).2.mem = s.mem := by rw [resolve_snd]
@[simp] theorem resolve_devices (m : Addr) (s : State) : (resolve m s).2.devices = s.devices := by rw [resolve_snd]
@[simp] theorem resolve_params (m : Addr) (s : State) : (resolve m s).2.params = s.params := by rw [resolve_snd]
@[simp] theorem resolve_wasReset (m : Addr) (s : State) : (resolve m s).2.wasReset = s.wasReset := by rw [resolve_snd]
@[simp] theorem isDevice_resolve (m : Addr) (s : State) (b : Word) : isDevice (resolve m s).2 b = isDevice s b :=
  isDevice_congr (resolve_devices m s) b
@[simp] theorem peek_resolve (m : Addr) (s : State) (b : Word) : peek (resolve m s).2 b = peek s b :=
  peek_congr (resolve_mem m s) b

/-- Reading an operand changes nothing but the record of transactions. -/
theorem readOperand_snd (o : Operand) (s : State) : (readOperand o s).2 = { s with bus := (readOperand o s).2.bus } := by
  cases o with
  | imm b => rfl
  | mem m => cases m <;> rfl

@[simp] theorem readOperand_a (o : Operand) (s : State) : (readOperand o s).2.a = s.a := by rw [readOperand_snd]
@[simp] theorem readOperand_x (o : Operand) (s : State) : (readOperand o s).2.x = s.x := by rw [readOperand_snd]
@[simp] theorem readOperand_y (o : Operand) (s : State) : (readOperand o s).2.y = s.y := by rw [readOperand_snd]
@[simp] theorem readOperand_sp (o : Operand) (s : State) : (readOperand o s).2.sp = s.sp := by rw [readOperand_snd]
@[simp] theorem readOperand_pc (o : Operand) (s : State) : (readOperand o s).2.pc = s.pc := by rw [readOperand_snd]
@[simp] theorem readOperand_p (o : Operand) (s : State) : (readOperand o s).2.p = s.p := by rw [readOperand_snd]
@[simp] theorem readOperand_suspended (o : Operand) (s : State) : (readOperand o s).2.suspended = s.suspended := by rw [readOperand_snd]
@[simp] theorem readOperand_halted (o : Operand) (s : State) : (readOperand o s).2.halted = s.halted := by rw [readOperand_snd]
@[simp] theorem readOperand_irqPending (o : Operand) (s : State) : (readOperand o s).2.irqPending = s.irqPending := by rw [readOperand_snd]
@[simp] theorem readOperand_nmiPending (o : Operand) (s : State) : (readOperand o s).2.nmiPending = s.nmiPending := by rw [readOperand_snd]
@[simp] theorem readOperand_mem (o : Operand) (s : State) : (readOperand o s).2.mem = s.mem := by rw [readOperand_snd]
@[simp] theorem readOperand_devices (o : Operand) (s : State) : (readOperand o s).2.devices = s.devices := by rw [readOperand_snd]
@[simp] theorem readOperand_params (o : Operand) (s : State) : (readOperand o s).2.params = s.params := by rw [readOperand_snd]
@[simp] theorem readOperand_wasReset (o : Operand) (s : State) : (readOperand o s).2.wasReset = s.wasReset := by rw [readOperand_snd]

/-! The operand forms, field by field: a read-type operation is done with `readOperand`; these are the storing ones. -/

@[simp] theorem storeAt_a (m : Addr) (v : Byte) (s : State) : (storeAt m v s).a = s.a := by simp [storeAt]
@[simp] theorem storeAt_x (m : Addr) (v : Byte) (s : State) : (storeAt m v s).x = s.x := by simp [storeAt]
@[simp] theorem storeAt_y (m : Addr) (v : Byte) (s : State) : (storeAt m v s).y = s.y := by simp [storeAt]
@[simp] theorem storeAt_sp (m : Addr) (v : Byte) (s : State) : (storeAt m v s).sp = s.sp := by simp [storeAt]
@[simp] theorem storeAt_pc (m : Addr) (v : Byte) (s : State) : (storeAt m v s).pc = s.pc := by simp [storeAt]
@[simp] theorem storeAt_p (m : Addr) (v : Byte) (s : State) : (storeAt m v s).p = s.p := by simp [storeAt]
@[simp] theorem storeAt_suspended (m : Addr) (v : Byte) (s : State) : (storeAt m v s).suspended = s.suspended := by simp [storeAt]
@[simp] theorem storeAt_halted (m : Addr) (v : Byte) (s : State) : (storeAt m v s).halted = s.halted := by simp [storeAt]
@[simp] theorem storeAt_irqPending (m : Addr) (v : Byte) (s : State) : (storeAt m v s).irqPending = s.irqPending := by simp [storeAt]
@[simp] theorem storeAt_nmiPending (m : Addr) (v : Byte) (s : State) : (storeAt m v s).nmiPending = s.nmiPending := by simp [storeAt]
@[simp] theorem storeAt_devices (m : Addr) (v : Byte) (s : State) : (storeAt m v s).devices = s.devices := by simp [storeAt]
@[simp] theorem storeAt_params (m : Addr) (v : Byte) (s : State) : (storeAt m v s).params = s.params := by simp [storeAt]
@[simp] theorem storeAt_wasReset (m : Addr) (v : Byte) (s : State) : (storeAt m v s).wasReset = s.wasReset := by simp [storeAt]
@[simp] theorem storeAt_mem (m : Addr) (v : Byte) (s : State) : (storeAt m v s).mem = (busWrite (resolve m s).1 v s).mem := by
  simp [storeAt]
@[simp] theorem storeAt_bus (m : Addr) (v : Byte) (s : State) :
    (storeAt m v s).bus = .write (resolve m s).1 v :: (resolve m s).2.bus := rfl

/-! Stack words and status. -/

theorem pull16_eq (s : State) :
    pull16 s = (mkWord (answer (pull8 s).2 (stackAddr (s.sp + 1#8 + 1#8))) (answer s (stackAddr (s.sp + 1#8))),
      (pull8 (pull8 s).2).2) := rfl

theorem pullP_eq (s : State) : pullP s = { (pull8 s).2 with p := unpackP (answer s (stackAddr (s.sp + 1#8))) } := rfl

/-- A return from an interrupt written out (46_control_flow.md R233): three reads, the status, then PC, low byte first. -/
theorem interruptReturn_eq (s : State) :
    interruptReturn s = { s with
      sp := s.sp + 1#8 + 1#8 + 1#8
      p := unpackP (answer s (stackAddr (s.sp + 1#8)))
      pc := mkWord (answer (pull8 (pull8 s).2).2 (stackAddr (s.sp + 1#8 + 1#8 + 1#8)))
        (answer (pull8 s).2 (stackAddr (s.sp + 1#8 + 1#8)))
      bus := (pull8 (pull8 (pull8 s).2).2).2.bus } := rfl

/-- What an interrupt entry saves, written out (60_exceptions.md R304): three writes, high byte of PC first. -/
theorem interruptSave_eq (s : State) :
    interruptSave s = { s with
      suspended := false
      sp := s.sp - 1#8 - 1#8 - 1#8
      p := { s.p with d := false, i := true }
      mem := (interruptSave s).mem
      bus := .write (stackAddr (s.sp - 1#8 - 1#8)) (packP s.p) :: .write (stackAddr (s.sp - 1#8)) (loByte s.pc) ::
        .write (stackAddr s.sp) (hiByte s.pc) :: s.bus } := by
  apply State.ext <;> simp [interruptSave, pushP, push16]

@[simp] theorem interruptSave_mem (s : State) :
    (interruptSave s).mem = (push8 (packP s.p) (push8 (loByte s.pc) (push8 (hiByte s.pc) s))).mem := rfl

/-- What every interrupt entry leaves in registers, flags and latches (60_exceptions.md R304). -/
theorem interruptEntry_fields (vec : Word) (s : State) :
    (interruptEntry vec s).a = s.a ∧ (interruptEntry vec s).x = s.x ∧ (interruptEntry vec s).y = s.y ∧
    (interruptEntry vec s).sp = s.sp - 1#8 - 1#8 - 1#8 ∧ (interruptEntry vec s).p = { s.p with d := false, i := true } ∧
    (interruptEntry vec s).suspended = false ∧ (interruptEntry vec s).halted = s.halted ∧
    (interruptEntry vec s).irqPending = s.irqPending ∧ (interruptEntry vec s).nmiPending = s.nmiPending ∧
    (interruptEntry vec s).devices = s.devices ∧ (interruptEntry vec s).params = s.params ∧
    (interruptEntry vec s).wasReset = s.wasReset :=
  by rw [interruptEntry, interruptSave_eq]; simp [memRead16_eq]

/-- The transactions of an interrupt entry (60_exceptions.md R304): three writes, then the two reads of the vector. -/
theorem interruptEntry_bus (vec : Word) (s : State) :
    ∃ l h : Byte, (interruptEntry vec s).pc = mkWord h l ∧
      (interruptEntry vec s).bus = .read (vec + 1#16) h :: .read vec l ::
        .write (stackAddr (s.sp - 1#8 - 1#8)) (packP s.p) :: .write (stackAddr (s.sp - 1#8)) (loByte s.pc) ::
        .write (stackAddr s.sp) (hiByte s.pc) :: s.bus := by
  obtain ⟨l, h, hw, hb⟩ := memRead16_reads vec (interruptSave s)
  refine ⟨l, h, hw, hb.trans ?_⟩
  rw [interruptSave_eq]

/-- The memory an interrupt entry leaves is that of its three pushes. -/
theorem interruptEntry_mem (vec : Word) (s : State) :
    (interruptEntry vec s).mem = (push8 (packP s.p) (push8 (loByte s.pc) (push8 (hiByte s.pc) s))).mem := rfl

end Sys2Proof.Machine
end

