-- ==== Sys2Proof/Laws/Exec.lean ====
section
/-! SUPPORT. What every instruction leaves alone, said once. -/

namespace Sys2Proof.Machine

/-- No instruction writes a request latch, the platform or the parameters; only STP writes `halted`, only WAI and BRK
write `suspended` (10_state.md R31 to R34). -/
theorem exec_keeps {i : Instr} {s t : State} (h : exec i s = .next t) :
    t = { s with
      a := t.a
      x := t.x
      y := t.y
      sp := t.sp
      pc := t.pc
      p := t.p
      suspended := t.suspended
      halted := t.halted
      mem := t.mem
      bus := t.bus } ∧
    (i ≠ .stp → t.halted = s.halted) ∧ (i ≠ .wai → i ≠ .brk → t.suspended = s.suspended) ∧
    (i = .brk → t.suspended = false) := by
  cases i
  case undef op =>
    simp only [exec, execUndef] at h
    split at h <;> cases h
    simp
  case brk =>
    cases h
    have f := interruptEntry_fields irqVector { s with pc := s.pc + 1#16, p := { s.p with b := true } }
    exact ⟨by apply State.ext <;> simp [f], by simp [f], by simp, by simp [f]⟩
  case bit o => cases o <;> cases h <;> simp
  all_goals cases h
  all_goals first
    | simp; done
    | (simp [addLike, compareWith, logicInto, testAndWrite]; done)
    | (simp [pullP_eq, pull16_eq, interruptReturn_eq]; done)
    | (simp only [branch]; split <;> simp)
    | (rename_i r; cases r <;> simp [modifyTarget]; done)
    | exact ⟨rfl, fun _ => rfl, fun _ _ => rfl, by simp⟩
    | (rename_i m; cases m <;> exact ⟨rfl, fun _ => rfl, fun _ _ => rfl, by simp⟩)

end Sys2Proof.Machine
end

