-- ==== Sys2Proof/Laws/PerInstr.lean ====
section
/-! SUPPORT. The statements made of each instruction of the syntax. -/

namespace Sys2Proof.Laws

/-- The operand bytes of an address are one or two (30_encoding.md R72, R73). -/
theorem addr_bytes (m : Addr) : 1 ≤ m.bytes.length ∧ m.bytes.length ≤ 2 := by cases m <;> simp [Addr.bytes]

theorem operand_bytes (o : Operand) : 1 ≤ o.bytes.length ∧ o.bytes.length ≤ 2 := by
  cases o with
  | imm b => simp [Operand.bytes]
  | mem m => exact addr_bytes m

theorem target_bytes (t : Target) : t.bytes.length ≤ 2 := by
  cases t with
  | acc => simp [Target.bytes]
  | mem m => exact (addr_bytes m).2

/-- An instruction is one, two or three bytes long (30_encoding.md R70). -/
def LengthBounds.Statement (i : Instr) : Prop := 1 ≤ i.length ∧ i.length ≤ 3

theorem length_of_addr {i : Instr} {m : Addr} (h : i.length = 1 + m.bytes.length) : LengthBounds.Statement i := by
  have := addr_bytes m
  unfold LengthBounds.Statement
  omega

theorem length_of_operand {i : Instr} {o : Operand} (h : i.length = 1 + o.bytes.length) : LengthBounds.Statement i := by
  have := operand_bytes o
  unfold LengthBounds.Statement
  omega

theorem length_of_target {i : Instr} {t : Target} (h : i.length = 1 + t.bytes.length) : LengthBounds.Statement i := by
  have := target_bytes t
  unfold LengthBounds.Statement
  omega

theorem length_of_number {i : Instr} (n : Fin 3) (h : i.length = 1 + n.val) : LengthBounds.Statement i := by
  unfold LengthBounds.Statement
  omega

theorem LengthBounds.adc (o : Operand) : LengthBounds.Statement (.adc o) := length_of_operand rfl
theorem LengthBounds.sbc (o : Operand) : LengthBounds.Statement (.sbc o) := length_of_operand rfl
theorem LengthBounds.cmp (o : Operand) : LengthBounds.Statement (.cmp o) := length_of_operand rfl
theorem LengthBounds.cpx (o : Operand) : LengthBounds.Statement (.cpx o) := length_of_operand rfl
theorem LengthBounds.cpy (o : Operand) : LengthBounds.Statement (.cpy o) := length_of_operand rfl
theorem LengthBounds.and (o : Operand) : LengthBounds.Statement (.and o) := length_of_operand rfl
theorem LengthBounds.ora (o : Operand) : LengthBounds.Statement (.ora o) := length_of_operand rfl
theorem LengthBounds.eor (o : Operand) : LengthBounds.Statement (.eor o) := length_of_operand rfl
theorem LengthBounds.bit (o : Operand) : LengthBounds.Statement (.bit o) := length_of_operand rfl
theorem LengthBounds.trb (m : Addr) : LengthBounds.Statement (.trb m) := length_of_addr rfl
theorem LengthBounds.tsb (m : Addr) : LengthBounds.Statement (.tsb m) := length_of_addr rfl
theorem LengthBounds.asl (t : Target) : LengthBounds.Statement (.asl t) := length_of_target rfl
theorem LengthBounds.lsr (t : Target) : LengthBounds.Statement (.lsr t) := length_of_target rfl
theorem LengthBounds.rol (t : Target) : LengthBounds.Statement (.rol t) := length_of_target rfl
theorem LengthBounds.ror (t : Target) : LengthBounds.Statement (.ror t) := length_of_target rfl
theorem LengthBounds.inc (t : Target) : LengthBounds.Statement (.inc t) := length_of_target rfl
theorem LengthBounds.dec (t : Target) : LengthBounds.Statement (.dec t) := length_of_target rfl
theorem LengthBounds.inx : LengthBounds.Statement .inx := length_of_number 0 rfl
theorem LengthBounds.iny : LengthBounds.Statement .iny := length_of_number 0 rfl
theorem LengthBounds.dex : LengthBounds.Statement .dex := length_of_number 0 rfl
theorem LengthBounds.dey : LengthBounds.Statement .dey := length_of_number 0 rfl
theorem LengthBounds.lda (o : Operand) : LengthBounds.Statement (.lda o) := length_of_operand rfl
theorem LengthBounds.ldx (o : Operand) : LengthBounds.Statement (.ldx o) := length_of_operand rfl
theorem LengthBounds.ldy (o : Operand) : LengthBounds.Statement (.ldy o) := length_of_operand rfl
theorem LengthBounds.sta (m : Addr) : LengthBounds.Statement (.sta m) := length_of_addr rfl
theorem LengthBounds.stx (m : Addr) : LengthBounds.Statement (.stx m) := length_of_addr rfl
theorem LengthBounds.sty (m : Addr) : LengthBounds.Statement (.sty m) := length_of_addr rfl
theorem LengthBounds.stz (m : Addr) : LengthBounds.Statement (.stz m) := length_of_addr rfl
theorem LengthBounds.tax : LengthBounds.Statement .tax := length_of_number 0 rfl
theorem LengthBounds.tay : LengthBounds.Statement .tay := length_of_number 0 rfl
theorem LengthBounds.txa : LengthBounds.Statement .txa := length_of_number 0 rfl
theorem LengthBounds.tya : LengthBounds.Statement .tya := length_of_number 0 rfl
theorem LengthBounds.tsx : LengthBounds.Statement .tsx := length_of_number 0 rfl
theorem LengthBounds.txs : LengthBounds.Statement .txs := length_of_number 0 rfl
theorem LengthBounds.pha : LengthBounds.Statement .pha := length_of_number 0 rfl
theorem LengthBounds.php : LengthBounds.Statement .php := length_of_number 0 rfl
theorem LengthBounds.phx : LengthBounds.Statement .phx := length_of_number 0 rfl
theorem LengthBounds.phy : LengthBounds.Statement .phy := length_of_number 0 rfl
theorem LengthBounds.pla : LengthBounds.Statement .pla := length_of_number 0 rfl
theorem LengthBounds.plp : LengthBounds.Statement .plp := length_of_number 0 rfl
theorem LengthBounds.plx : LengthBounds.Statement .plx := length_of_number 0 rfl
theorem LengthBounds.ply : LengthBounds.Statement .ply := length_of_number 0 rfl
theorem LengthBounds.bcc (rel : Byte) : LengthBounds.Statement (.bcc rel) := length_of_number 1 rfl
theorem LengthBounds.bcs (rel : Byte) : LengthBounds.Statement (.bcs rel) := length_of_number 1 rfl
theorem LengthBounds.beq (rel : Byte) : LengthBounds.Statement (.beq rel) := length_of_number 1 rfl
theorem LengthBounds.bne (rel : Byte) : LengthBounds.Statement (.bne rel) := length_of_number 1 rfl
theorem LengthBounds.bmi (rel : Byte) : LengthBounds.Statement (.bmi rel) := length_of_number 1 rfl
theorem LengthBounds.bpl (rel : Byte) : LengthBounds.Statement (.bpl rel) := length_of_number 1 rfl
theorem LengthBounds.bvc (rel : Byte) : LengthBounds.Statement (.bvc rel) := length_of_number 1 rfl
theorem LengthBounds.bvs (rel : Byte) : LengthBounds.Statement (.bvs rel) := length_of_number 1 rfl
theorem LengthBounds.bra (rel : Byte) : LengthBounds.Statement (.bra rel) := length_of_number 1 rfl
theorem LengthBounds.jmp (m : Addr) : LengthBounds.Statement (.jmp m) := length_of_addr rfl
theorem LengthBounds.jsr (w : Word) : LengthBounds.Statement (.jsr w) := length_of_number 2 rfl
theorem LengthBounds.rts : LengthBounds.Statement .rts := length_of_number 0 rfl
theorem LengthBounds.rti : LengthBounds.Statement .rti := length_of_number 0 rfl
theorem LengthBounds.brk : LengthBounds.Statement .brk := length_of_number 1 rfl
theorem LengthBounds.wai : LengthBounds.Statement .wai := length_of_number 0 rfl
theorem LengthBounds.stp : LengthBounds.Statement .stp := length_of_number 0 rfl
theorem LengthBounds.nop : LengthBounds.Statement .nop := length_of_number 0 rfl
theorem LengthBounds.clc : LengthBounds.Statement .clc := length_of_number 0 rfl
theorem LengthBounds.sec : LengthBounds.Statement .sec := length_of_number 0 rfl
theorem LengthBounds.cli : LengthBounds.Statement .cli := length_of_number 0 rfl
theorem LengthBounds.sei : LengthBounds.Statement .sei := length_of_number 0 rfl
theorem LengthBounds.cld : LengthBounds.Statement .cld := length_of_number 0 rfl
theorem LengthBounds.sed : LengthBounds.Statement .sed := length_of_number 0 rfl
theorem LengthBounds.clv : LengthBounds.Statement .clv := length_of_number 0 rfl
theorem LengthBounds.undef (op : Byte) : LengthBounds.Statement (.undef op) := length_of_number 0 rfl

end Sys2Proof.Laws
end

