-- ==== Sys2Proof/Laws/Step.lean ====
section
/-! SUPPORT. What a step and its boundary can do, said once. -/

namespace Sys2Proof.Machine

/-- The three cases of the boundary (60_exceptions.md R302). -/
theorem boundary_cases (s : State) :
    (s.nmiPending = true ∧ boundary s = interruptEntry nmiVector { s with nmiPending := false }) ∨
    (s.nmiPending = false ∧ s.irqPending = true ∧ s.p.i = false ∧ boundary s = interruptEntry irqVector s) ∨
    (s.nmiPending = false ∧ (s.irqPending = false ∨ s.p.i = true) ∧ boundary s = s) := by
  unfold boundary
  cases hn : s.nmiPending <;> cases hq : s.irqPending <;> cases hi : s.p.i <;> simp

theorem finishStep_next {o : Host.Outcome State Fault Refusal} {t : State} (h : finishStep o = .next t) :
    ∃ u, o = .next u ∧ t = boundary u := by
  cases o with
  | next u => exact ⟨u, rfl, by simpa [finishStep] using h.symm⟩
  | fault r => cases h
  | refused r => cases h

/-- The ways a step can end in a next state (60_exceptions.md R300). -/
theorem step_cases {s t : State} (h : step s = .next t) :
    s.wasReset = true ∧
    ((s.halted = true ∧ t = s) ∨
    (s.halted = false ∧ s.suspended = true ∧ t = boundary s) ∨
    (s.halted = false ∧ s.suspended = false ∧
      ∃ u, exec (fetchInstr s).1 (fetchInstr s).2 = .next u ∧ t = boundary u)) := by
  unfold step at h
  split at h
  · cases h
  rename_i hr
  refine ⟨by simpa using hr, ?_⟩
  split at h
  · rename_i hh
    exact .inl ⟨hh, by simpa using h.symm⟩
  · rename_i hh
    split at h
    · rename_i hs
      exact .inr (.inl ⟨by simpa using hh, hs, by simpa using h.symm⟩)
    · rename_i hs
      exact .inr (.inr ⟨by simpa using hh, by simpa using hs, finishStep_next h⟩)

end Sys2Proof.Machine
end

