-- ==== Sys2Proof/Laws/Run.lean ====
section
/-! SUPPORT. What a step, an input and a run do to the mark of the first reset, and how runs compose. -/

namespace Sys2Proof.Machine

@[simp] theorem fetchInstr_wasReset (s : State) : (fetchInstr s).2.wasReset = s.wasReset := by
  unfold fetchInstr
  dsimp only
  split <;> rfl

@[simp] theorem boundary_wasReset (s : State) : (boundary s).wasReset = s.wasReset := by
  obtain ⟨-, h⟩ | ⟨-, -, -, h⟩ | ⟨-, -, h⟩ := boundary_cases s <;> rw [h] <;> simp [interruptEntry_fields]

theorem exec_wasReset {i : Instr} {s t : State} (h : exec i s = .next t) : t.wasReset = s.wasReset := by
  rw [(exec_keeps h).1]

/-- A step that ends in a next state came after the first reset, and so does the next. -/
theorem step_wasReset {s t : State} (h : step s = .next t) : s.wasReset = true ∧ t.wasReset = true := by
  obtain ⟨hr, ⟨-, rfl⟩ | ⟨-, -, rfl⟩ | ⟨-, -, u, hu, rfl⟩⟩ := step_cases h
  · exact ⟨hr, hr⟩
  · simpa using hr
  · simpa [exec_wasReset hu] using hr

/-- No input takes the mark of the first reset back. -/
theorem transition_wasReset {h : HostInput} {s t : State} (e : transition h s = .next t) (hr : s.wasReset = true) :
    t.wasReset = true := by
  cases h
  case step => exact (step_wasReset e).2
  all_goals cases e; first | exact hr | rfl

/-- The inputs after a run go on from the state it leaves; a fault or a refusal is final. -/
theorem runInputs_append (xs ys : List HostInput) (s : State) :
    runInputs (xs ++ ys) s =
      match runInputs xs s with
      | .next t => runInputs ys t
      | .fault r => .fault r
      | .refused r => .refused r := by
  induction xs generalizing s with
  | nil => rfl
  | cons h xs ih =>
    simp only [List.cons_append, runInputs]
    cases transition h s <;> simp [ih]

/-- How a run ends, said once (70_reset_and_hazards.md R409). -/
theorem runEnd_cases (inputs : List HostInput) (s : State) :
    (∃ t, runInputs inputs s = .next t ∧ t.wasReset = true ∧ t.halted = true ∧ runEnd inputs s = .haltedReached t) ∨
    (∃ t, runInputs inputs s = .next t ∧ (t.wasReset = false ∨ t.halted = false) ∧ runEnd inputs s = .budgetSpent t) ∨
    (∃ r, runInputs inputs s = .fault r ∧ runEnd inputs s = .faultOutcome r) ∨
    (∃ r, runInputs inputs s = .refused r ∧ runEnd inputs s = .outsideModel r) := by
  unfold runEnd
  cases runInputs inputs s with
  | next t =>
    cases hr : t.wasReset <;> cases hh : t.halted <;> simp [endOf, hr, hh]
  | fault r => simp [endOf]
  | refused r => simp [endOf]

end Sys2Proof.Machine
end

