-- ==== Sys2Proof/Tests/Slice0.lean ====
section
/-! SUPPORT. The model's own tests: ill-formed terms refused, words decoded, the vectors of 95_test_vectors.md, each one
step, and for each statement with hypotheses a state that meets them. -/

namespace Sys2Proof.Tests

open Sys2Proof.Machine

/-! Ill-formed terms: for each check of `Instr.wf`, a term it refuses. -/

theorem test_wf_alu_has_no_zpy : [Instr.adc (.mem (.zpy 0x10)), Instr.sbc (.mem (.zpy 0x10)), Instr.cmp (.mem (.zpy 0x10)), Instr.and (.mem (.zpy 0x10)), Instr.ora (.mem (.zpy 0x10)), Instr.eor (.mem (.zpy 0x10)), Instr.lda (.mem (.zpy 0x10))].all (fun i => !i.wf) = true := by decide
theorem test_wf_alu_has_no_indirect_jump_form : [Instr.adc (.mem (.ind 0x1234)), Instr.lda (.mem (.iax 0x1234))].all (fun i => !i.wf) = true := by decide
theorem test_wf_cpx_cpy_have_no_index : [Instr.cpx (.mem (.zpx 0x10)), Instr.cpy (.mem (.abx 0x1234))].all (fun i => !i.wf) = true := by decide
theorem test_wf_bit_has_no_y_index : [Instr.bit (.mem (.aby 0x1234))].all (fun i => !i.wf) = true := by decide
theorem test_wf_trb_tsb_have_no_index : [Instr.trb (.zpx 0x10), Instr.tsb (.abx 0x1234)].all (fun i => !i.wf) = true := by decide
theorem test_wf_rmw_has_no_y_index : [Instr.asl (.mem (.aby 0x1234)), Instr.lsr (.mem (.aby 0x1234)), Instr.rol (.mem (.aby 0x1234)), Instr.ror (.mem (.aby 0x1234)), Instr.inc (.mem (.aby 0x1234)), Instr.dec (.mem (.aby 0x1234))].all (fun i => !i.wf) = true := by decide
theorem test_wf_ldx_indexes_by_y : [Instr.ldx (.mem (.zpx 0x10))].all (fun i => !i.wf) = true := by decide
theorem test_wf_ldy_indexes_by_x : [Instr.ldy (.mem (.zpy 0x10))].all (fun i => !i.wf) = true := by decide
theorem test_wf_sta_has_no_zpy : [Instr.sta (.zpy 0x10)].all (fun i => !i.wf) = true := by decide
theorem test_wf_stx_indexes_by_y : [Instr.stx (.zpx 0x10)].all (fun i => !i.wf) = true := by decide
theorem test_wf_sty_has_no_absolute_index : [Instr.sty (.abx 0x1234)].all (fun i => !i.wf) = true := by decide
theorem test_wf_stz_has_no_y_index : [Instr.stz (.aby 0x1234)].all (fun i => !i.wf) = true := by decide
theorem test_wf_jmp_has_no_zero_page : [Instr.jmp (.zp 0x10)].all (fun i => !i.wf) = true := by decide
theorem test_wf_undef_is_not_a_defined_opcode : [Instr.undef 0xEA].all (fun i => !i.wf) = true := by decide

/-! Decoding: for each constructor a word written out from its rule's opcodes and 30_encoding.md R71 to R73. -/

/-- What the decoder reads when it uses every byte. -/
def decodeWhole (bytes : List Byte) : Option Instr :=
  match decode bytes with
  | .ok (i, []) => some i
  | _ => none

theorem test_decode_arithmetic :
    [[0x69, 0x50], [0xF1, 0x42], [0xD2, 0x10], [0xEC, 0x34, 0x12], [0xC4, 0x10]].map decodeWhole =
      [some (.adc (.imm 0x50)), some (.sbc (.mem (.ziy 0x42))), some (.cmp (.mem (.zpi 0x10))), some (.cpx (.mem (.abs 0x1234))), some (.cpy (.mem (.zp 0x10)))] := by decide

theorem test_decode_logic :
    [[0x21, 0xF0], [0x19, 0x34, 0x12], [0x5D, 0x34, 0x12], [0x34, 0x10], [0x1C, 0x34, 0x12], [0x04, 0x10]].map decodeWhole =
      [some (.and (.mem (.zix 0xF0))), some (.ora (.mem (.aby 0x1234))), some (.eor (.mem (.abx 0x1234))), some (.bit (.mem (.zpx 0x10))), some (.trb (.abs 0x1234)), some (.tsb (.zp 0x10))] := by decide

theorem test_decode_shift :
    [[0x0A], [0x5E, 0x34, 0x12], [0x36, 0x10], [0x66, 0x10], [0xEE, 0x34, 0x12], [0x3A], [0xE8], [0xC8], [0xCA], [0x88]].map decodeWhole =
      [some (.asl .acc), some (.lsr (.mem (.abx 0x1234))), some (.rol (.mem (.zpx 0x10))), some (.ror (.mem (.zp 0x10))), some (.inc (.mem (.abs 0x1234))), some (.dec .acc), some .inx, some .iny, some .dex, some .dey] := by decide

theorem test_decode_load_store :
    [[0xB2, 0x10], [0xB6, 0xF0], [0xA0, 0x01], [0x99, 0x00, 0x20], [0x96, 0xF8], [0x94, 0x10], [0x9C, 0x00, 0x03]].map decodeWhole =
      [some (.lda (.mem (.zpi 0x10))), some (.ldx (.mem (.zpy 0xF0))), some (.ldy (.imm 0x01)), some (.sta (.aby 0x2000)), some (.stx (.zpy 0xF8)), some (.sty (.zpx 0x10)), some (.stz (.abs 0x0300))] := by decide

theorem test_decode_transfer :
    [[0xAA], [0xA8], [0x8A], [0x98], [0xBA], [0x9A]].map decodeWhole =
      [some .tax, some .tay, some .txa, some .tya, some .tsx, some .txs] := by decide

theorem test_decode_stack :
    [[0x48], [0x08], [0xDA], [0x5A], [0x68], [0x28], [0xFA], [0x7A]].map decodeWhole =
      [some .pha, some .php, some .phx, some .phy, some .pla, some .plp, some .plx, some .ply] := by decide

theorem test_decode_control :
    [[0x90, 0x10], [0xB0, 0x10], [0xF0, 0x80], [0xD0, 0xFE], [0x30, 0x7F], [0x10, 0xFC], [0x50, 0x02], [0x70, 0x02], [0x80, 0x03], [0x6C, 0xFF, 0x12], [0x20, 0x00, 0x20], [0x60], [0x40]].map decodeWhole =
      [some (.bcc 0x10), some (.bcs 0x10), some (.beq 0x80), some (.bne 0xFE), some (.bmi 0x7F), some (.bpl 0xFC), some (.bvc 0x02), some (.bvs 0x02), some (.bra 0x03), some (.jmp (.ind 0x12FF)), some (.jsr 0x2000), some .rts, some .rti] := by decide

theorem test_decode_system :
    [[0x00, 0xEA], [0xCB], [0xDB], [0xEA], [0x18], [0x38], [0x58], [0x78], [0xD8], [0xF8], [0xB8], [0x02]].map decodeWhole =
      [some .brk, some .wai, some .stp, some .nop, some .clc, some .sec, some .cli, some .sei, some .cld, some .sed, some .clv, some (.undef 0x02)] := by decide

/-- Reset memory reads 0x00 everywhere, so the bytes run out only in a list that is too short (30_encoding.md R70). -/
theorem test_decode_truncated : decodeWhole [] = none ∧ decodeWhole [0xAD, 0x34] = none ∧ decodeWhole [0x00] = none := by decide

/-- Every byte value has an entry (30_encoding.md R79), and the same entry in the host's numbering of bits. -/
theorem test_table_words :
    decodeTableWord 24 0x12346D = some (.adc (.mem (.abs 0x1234))) ∧ decodeTableWord 8 0x00 = some .brk ∧
    decodeTableWord 16 0x50A9 = some (.lda (.imm 0x50)) ∧ decodeTableWord 8 0xFF = some (.undef 0xFF) := by decide

/-! One step on a small state (95_test_vectors.md, Notation). -/

def flags (n v b d i z c : Bool) : Flags := { n := n, v := v, b := b, d := d, i := i, z := z, c := c }

/-- The start of the vectors: A, X, Y zero, SP 0xFF, flags clear, the instruction's bytes at PC, some bytes named. -/
def start (pc : Word) (bytes : List Byte) (cells : List (Nat × Byte)) : State :=
  { State.reset with
    pc := pc
    p := flags false false false false false false false
    mem := cells.foldl (fun m cell => Memory.set m cell.1 cell.2) (placeBytes bytes pc [])
    bus := [] }

/-- What a test looks at: registers, flags, and some transactions in order. -/
structure Seen where
  a : Byte
  x : Byte
  y : Byte
  sp : Byte
  pc : Word
  p : Flags
  bus : List BusEvent
deriving DecidableEq, Repr

/-- The registers and flags, and the last `n` transactions. -/
def view (n : Nat) (s : State) : Seen := { a := s.a, x := s.x, y := s.y, sp := s.sp, pc := s.pc, p := s.p, bus := (s.bus.take n).reverse }

/-- The view after one step. -/
def after (n : Nat) (s : State) : Option Seen :=
  match step s with
  | .next t => some (view n t)
  | _ => none

/-- 95_test_vectors.md S1. -/
theorem test_adc_overflow :
    after 0 { start 0x1000 [0x69, 0x50] [] with a := 0x50 } =
      some ⟨0xA0, 0x00, 0x00, 0xFF, 0x1002, flags true true false false false false false, []⟩ := by decide

/-- 95_test_vectors.md 2.2, 58 + 46 + 1. -/
theorem test_adc_decimal :
    after 0 { start 0x1000 [0x69, 0x46] [] with a := 0x58, p := flags false false false true false false true } =
      some ⟨0x05, 0x00, 0x00, 0xFF, 0x1002, flags false true false true false false true, []⟩ := by decide

/-- 95_test_vectors.md 2.2. -/
theorem test_sbc_binary :
    after 0 { start 0x1000 [0xE9, 0xB0] [] with a := 0x50, p := flags false false false false false false true } =
      some ⟨0xA0, 0x00, 0x00, 0xFF, 0x1002, flags true true false false false false false, []⟩ := by decide

/-- 95_test_vectors.md 2.2, 21 - 34. -/
theorem test_sbc_decimal_borrow :
    after 0 { start 0x1000 [0xE9, 0x34] [] with a := 0x21, p := flags false false false true false false true } =
      some ⟨0x87, 0x00, 0x00, 0xFF, 0x1002, flags true false false true false false false, []⟩ := by decide

/-- 95_test_vectors.md 2.2. -/
theorem test_cmp :
    after 0 { start 0x1000 [0xC9, 0x20] [] with a := 0x10 } =
      some ⟨0x10, 0x00, 0x00, 0xFF, 0x1002, flags true false false false false false false, []⟩ := by decide

/-- 95_test_vectors.md 2.2. -/
theorem test_cpx :
    after 0 (start 0x1000 [0xE0, 0xFF] []) =
      some ⟨0x00, 0x00, 0x00, 0xFF, 0x1002, flags false false false false false false false, []⟩ := by decide

/-- 95_test_vectors.md 2.2. -/
theorem test_cpy :
    after 0 (start 0x1000 [0xC0, 0x00] []) =
      some ⟨0x00, 0x00, 0x00, 0xFF, 0x1002, flags false false false false false true true, []⟩ := by decide

/-- 95_test_vectors.md 2.3. -/
theorem test_and :
    after 0 { start 0x1000 [0x29, 0x0F] [] with a := 0xF0 } =
      some ⟨0x00, 0x00, 0x00, 0xFF, 0x1002, flags false false false false false true false, []⟩ := by decide

/-- 95_test_vectors.md 2.3. -/
theorem test_ora :
    after 0 { start 0x1000 [0x09, 0x80] [] with a := 0x01 } =
      some ⟨0x81, 0x00, 0x00, 0xFF, 0x1002, flags true false false false false false false, []⟩ := by decide

/-- 95_test_vectors.md 2.3. -/
theorem test_eor :
    after 0 { start 0x1000 [0x49, 0xFF] [] with a := 0xFF } =
      some ⟨0x00, 0x00, 0x00, 0xFF, 0x1002, flags false false false false false true false, []⟩ := by decide

/-- 95_test_vectors.md 2.3. -/
theorem test_bit_memory :
    after 1 { start 0x1000 [0x24, 0x10] [(0x0010, 0xC0)] with a := 0x01 } =
      some ⟨0x01, 0x00, 0x00, 0xFF, 0x1002, flags true true false false false true false, [.read 0x0010 0xC0]⟩ := by decide

/-- 95_test_vectors.md 2.3. -/
theorem test_bit_immediate :
    after 0 { start 0x1000 [0x89, 0xC0] [] with a := 0x01 } =
      some ⟨0x01, 0x00, 0x00, 0xFF, 0x1002, flags false false false false false true false, []⟩ := by decide

/-- 95_test_vectors.md 2.3. -/
theorem test_trb :
    after 2 { start 0x1000 [0x14, 0x10] [(0x0010, 0x3C)] with a := 0x0F } =
      some ⟨0x0F, 0x00, 0x00, 0xFF, 0x1002, flags false false false false false false false, [.read 0x0010 0x3C, .write 0x0010 0x30]⟩ := by decide

/-- 95_test_vectors.md 2.3 (the byte is written although it does not change). -/
theorem test_tsb_unchanged_byte :
    after 2 (start 0x1000 [0x04, 0x10] [(0x0010, 0x30)]) =
      some ⟨0x00, 0x00, 0x00, 0xFF, 0x1002, flags false false false false false true false, [.read 0x0010 0x30, .write 0x0010 0x30]⟩ := by decide

/-- 95_test_vectors.md 2.4. -/
theorem test_asl :
    after 0 { start 0x1000 [0x0A] [] with a := 0x80 } =
      some ⟨0x00, 0x00, 0x00, 0xFF, 0x1001, flags false false false false false true true, []⟩ := by decide

/-- 95_test_vectors.md 2.4. -/
theorem test_lsr_memory :
    after 2 (start 0x1000 [0x46, 0x10] [(0x0010, 0x01)]) =
      some ⟨0x00, 0x00, 0x00, 0xFF, 0x1002, flags false false false false false true true, [.read 0x0010 0x01, .write 0x0010 0x00]⟩ := by decide

/-- 95_test_vectors.md 2.4. -/
theorem test_rol :
    after 0 { start 0x1000 [0x2A] [] with a := 0x80, p := flags false false false false false false true } =
      some ⟨0x01, 0x00, 0x00, 0xFF, 0x1001, flags false false false false false false true, []⟩ := by decide

/-- 95_test_vectors.md 2.4. -/
theorem test_ror :
    after 0 { start 0x1000 [0x6A] [] with a := 0x01, p := flags false false false false false false true } =
      some ⟨0x80, 0x00, 0x00, 0xFF, 0x1001, flags true false false false false false true, []⟩ := by decide

/-- 95_test_vectors.md 2.4. -/
theorem test_inc_memory :
    after 2 (start 0x1000 [0xE6, 0x10] [(0x0010, 0xFF)]) =
      some ⟨0x00, 0x00, 0x00, 0xFF, 0x1002, flags false false false false false true false, [.read 0x0010 0xFF, .write 0x0010 0x00]⟩ := by decide

/-- 95_test_vectors.md 2.4. -/
theorem test_dec :
    after 0 (start 0x1000 [0x3A] []) =
      some ⟨0xFF, 0x00, 0x00, 0xFF, 0x1001, flags true false false false false false false, []⟩ := by decide

/-- 95_test_vectors.md 2.4. -/
theorem test_inx :
    after 0 { start 0x1000 [0xE8] [] with x := 0xFF } =
      some ⟨0x00, 0x00, 0x00, 0xFF, 0x1001, flags false false false false false true false, []⟩ := by decide

/-- 43_shift_incdec.md R168. -/
theorem test_iny :
    after 0 (start 0x1000 [0xC8] []) =
      some ⟨0x00, 0x00, 0x01, 0xFF, 0x1001, flags false false false false false false false, []⟩ := by decide

/-- 43_shift_incdec.md R169. -/
theorem test_dex :
    after 0 { start 0x1000 [0xCA] [] with x := 0x80 } =
      some ⟨0x00, 0x7F, 0x00, 0xFF, 0x1001, flags false false false false false false false, []⟩ := by decide

/-- 95_test_vectors.md 2.4. -/
theorem test_dey :
    after 0 (start 0x1000 [0x88] []) =
      some ⟨0x00, 0x00, 0xFF, 0xFF, 0x1001, flags true false false false false false false, []⟩ := by decide

/-- 95_test_vectors.md S4. -/
theorem test_lda_zix :
    after 3 { start 0x1000 [0xA1, 0xF0] [(0x0010, 0x34), (0x0011, 0x12), (0x1234, 0x99)] with x := 0x20 } =
      some ⟨0x99, 0x20, 0x00, 0xFF, 0x1002, flags true false false false false false false, [.read 0x0010 0x34, .read 0x0011 0x12, .read 0x1234 0x99]⟩ := by decide

/-- 95_test_vectors.md 2.1 (the pointer and the sum at the end of the address space). -/
theorem test_lda_ziy_wraps :
    after 3 { start 0x1000 [0xB1, 0x80] [(0x0080, 0xFF), (0x0081, 0xFF), (0x0001, 0x66)] with y := 0x02 } =
      some ⟨0x66, 0x00, 0x02, 0xFF, 0x1002, flags false false false false false false false, [.read 0x0080 0xFF, .read 0x0081 0xFF, .read 0x0001 0x66]⟩ := by decide

/-- 95_test_vectors.md 2.1, ZP_PTR_WRAP = true. -/
theorem test_zp_pointer_wraps :
    after 3 (start 0x1000 [0xA1, 0xFF] [(0x00FF, 0x34), (0x0000, 0x12), (0x0100, 0x56), (0x1234, 0x77), (0x5634, 0x88)]) =
      some ⟨0x77, 0x00, 0x00, 0xFF, 0x1002, flags false false false false false false false, [.read 0x00FF 0x34, .read 0x0000 0x12, .read 0x1234 0x77]⟩ := by decide

/-- 95_test_vectors.md 2.1, ZP_PTR_WRAP = false. -/
theorem test_zp_pointer_does_not_wrap :
    after 3 { start 0x1000 [0xA1, 0xFF] [(0x00FF, 0x34), (0x0000, 0x12), (0x0100, 0x56), (0x1234, 0x77), (0x5634, 0x88)] with params := { undefPolicy := .nop1, zpPtrWrap := false } } =
      some ⟨0x88, 0x00, 0x00, 0xFF, 0x1002, flags true false false false false false false, [.read 0x00FF 0x34, .read 0x0100 0x56, .read 0x5634 0x88]⟩ := by decide

/-- 95_test_vectors.md 2.1. -/
theorem test_ldx_zpy_wraps :
    after 1 { start 0x1000 [0xB6, 0xF0] [(0x0010, 0x80)] with y := 0x20 } =
      some ⟨0x00, 0x80, 0x20, 0xFF, 0x1002, flags true false false false false false false, [.read 0x0010 0x80]⟩ := by decide

/-- 44_load_store_transfer.md R182. -/
theorem test_ldy :
    after 0 (start 0x1000 [0xA0, 0x01] []) =
      some ⟨0x00, 0x00, 0x01, 0xFF, 0x1002, flags false false false false false false false, []⟩ := by decide

/-- 95_test_vectors.md 2.1. -/
theorem test_lda_abx_wraps :
    after 1 { start 0x1000 [0xBD, 0xF0, 0xFF] [(0x0010, 0xAB)] with x := 0x20 } =
      some ⟨0xAB, 0x20, 0x00, 0xFF, 0x1003, flags true false false false false false false, [.read 0x0010 0xAB]⟩ := by decide

/-- 95_test_vectors.md 2.1. -/
theorem test_sta_aby :
    after 1 { start 0x1000 [0x99, 0x00, 0x20] [] with a := 0x42, y := 0xFF } =
      some ⟨0x42, 0x00, 0xFF, 0xFF, 0x1003, flags false false false false false false false, [.write 0x20FF 0x42]⟩ := by decide

/-- 44_load_store_transfer.md R184. -/
theorem test_stx_zpy_wraps :
    after 1 { start 0x1000 [0x96, 0xF8] [] with x := 0x07, y := 0x10 } =
      some ⟨0x00, 0x07, 0x10, 0xFF, 0x1002, flags false false false false false false false, [.write 0x0008 0x07]⟩ := by decide

/-- 44_load_store_transfer.md R185. -/
theorem test_sty :
    after 1 { start 0x1000 [0x84, 0x10] [] with y := 0x01 } =
      some ⟨0x00, 0x00, 0x01, 0xFF, 0x1002, flags false false false false false false false, [.write 0x0010 0x01]⟩ := by decide

/-- 95_test_vectors.md 2.5 (no read). -/
theorem test_stz :
    after 1 (start 0x1000 [0x64, 0x10] [(0x0010, 0xFF)]) =
      some ⟨0x00, 0x00, 0x00, 0xFF, 0x1002, flags false false false false false false false, [.write 0x0010 0x00]⟩ := by decide

/-- 95_test_vectors.md 2.5. -/
theorem test_tax :
    after 0 { start 0x1000 [0xAA] [] with a := 0x80 } =
      some ⟨0x80, 0x80, 0x00, 0xFF, 0x1001, flags true false false false false false false, []⟩ := by decide

/-- 44_load_store_transfer.md R188. -/
theorem test_tay :
    after 0 { start 0x1000 [0xA8] [] with a := 0x05 } =
      some ⟨0x05, 0x00, 0x05, 0xFF, 0x1001, flags false false false false false false false, []⟩ := by decide

/-- 44_load_store_transfer.md R189. -/
theorem test_txa :
    after 0 { start 0x1000 [0x8A] [] with x := 0xFF } =
      some ⟨0xFF, 0xFF, 0x00, 0xFF, 0x1001, flags true false false false false false false, []⟩ := by decide

/-- 44_load_store_transfer.md R190. -/
theorem test_tya :
    after 0 { start 0x1000 [0x98] [] with y := 0x10 } =
      some ⟨0x10, 0x00, 0x10, 0xFF, 0x1001, flags false false false false false false false, []⟩ := by decide

/-- 95_test_vectors.md 2.5. -/
theorem test_tsx :
    after 0 (start 0x1000 [0xBA] []) =
      some ⟨0x00, 0xFF, 0x00, 0xFF, 0x1001, flags true false false false false false false, []⟩ := by decide

/-- 95_test_vectors.md 2.5. -/
theorem test_txs_sets_no_flag :
    after 0 (start 0x1000 [0x9A] []) =
      some ⟨0x00, 0x00, 0x00, 0x00, 0x1001, flags false false false false false false false, []⟩ := by decide

/-- 95_test_vectors.md 2.6. -/
theorem test_pha_wraps :
    after 1 { start 0x1000 [0x48] [] with a := 0x42, sp := 0x00 } =
      some ⟨0x42, 0x00, 0x00, 0xFF, 0x1001, flags false false false false false false false, [.write 0x0100 0x42]⟩ := by decide

/-- 95_test_vectors.md 2.6. -/
theorem test_php :
    after 1 { start 0x1000 [0x08] [] with p := flags false false false false true true false } =
      some ⟨0x00, 0x00, 0x00, 0xFE, 0x1001, flags false false false false true true false, [.write 0x01FF 0x36]⟩ := by decide

/-- 45_stack.md R206. -/
theorem test_phx :
    after 1 { start 0x1000 [0xDA] [] with x := 0x01, sp := 0x80 } =
      some ⟨0x00, 0x01, 0x00, 0x7F, 0x1001, flags false false false false false false false, [.write 0x0180 0x01]⟩ := by decide

/-- 45_stack.md R207. -/
theorem test_phy :
    after 1 { start 0x1000 [0x5A] [] with y := 0x02, sp := 0x00 } =
      some ⟨0x00, 0x00, 0x02, 0xFF, 0x1001, flags false false false false false false false, [.write 0x0100 0x02]⟩ := by decide

/-- 95_test_vectors.md 2.6. -/
theorem test_pla_wraps :
    after 1 { start 0x1000 [0x68] [] with a := 0x55, sp := 0xFF } =
      some ⟨0x00, 0x00, 0x00, 0x00, 0x1001, flags false false false false false true false, [.read 0x0100 0x00]⟩ := by decide

/-- 95_test_vectors.md 2.6. -/
theorem test_plp :
    after 1 { start 0x1000 [0x28] [(0x01FF, 0xFF)] with sp := 0xFE } =
      some ⟨0x00, 0x00, 0x00, 0xFF, 0x1001, flags true true true true true true true, [.read 0x01FF 0xFF]⟩ := by decide

/-- 45_stack.md R210. -/
theorem test_plx :
    after 1 { start 0x1000 [0xFA] [(0x0180, 0x80)] with sp := 0x7F } =
      some ⟨0x00, 0x80, 0x00, 0x80, 0x1001, flags true false false false false false false, [.read 0x0180 0x80]⟩ := by decide

/-- 45_stack.md R211. -/
theorem test_ply :
    after 1 { start 0x1000 [0x7A] [(0x0100, 0x05)] with sp := 0xFF } =
      some ⟨0x00, 0x00, 0x05, 0x00, 0x1001, flags false false false false false false false, [.read 0x0100 0x05]⟩ := by decide

/-- 95_test_vectors.md 2.7. -/
theorem test_bcc_taken :
    after 0 (start 0x1000 [0x90, 0x10] []) =
      some ⟨0x00, 0x00, 0x00, 0xFF, 0x1012, flags false false false false false false false, []⟩ := by decide

/-- 95_test_vectors.md 2.7. -/
theorem test_bcs_not_taken :
    after 0 (start 0x1000 [0xB0, 0x10] []) =
      some ⟨0x00, 0x00, 0x00, 0xFF, 0x1002, flags false false false false false false false, []⟩ := by decide

/-- 95_test_vectors.md 2.7. -/
theorem test_beq_back :
    after 0 { start 0x2000 [0xF0, 0x80] [] with p := flags false false false false false true false } =
      some ⟨0x00, 0x00, 0x00, 0xFF, 0x1F82, flags false false false false false true false, []⟩ := by decide

/-- 95_test_vectors.md 2.7. -/
theorem test_bne_to_itself :
    after 0 (start 0x1000 [0xD0, 0xFE] []) =
      some ⟨0x00, 0x00, 0x00, 0xFF, 0x1000, flags false false false false false false false, []⟩ := by decide

/-- 95_test_vectors.md 2.7. -/
theorem test_bmi_wraps_up :
    after 0 { start 0xFFF0 [0x30, 0x7F] [] with p := flags true false false false false false false } =
      some ⟨0x00, 0x00, 0x00, 0xFF, 0x0071, flags true false false false false false false, []⟩ := by decide

/-- 95_test_vectors.md 2.7. -/
theorem test_bpl_wraps_down :
    after 0 (start 0x0000 [0x10, 0xFC] []) =
      some ⟨0x00, 0x00, 0x00, 0xFF, 0xFFFE, flags false false false false false false false, []⟩ := by decide

/-- 46_control_flow.md R227. -/
theorem test_bvc_taken :
    after 0 (start 0x1000 [0x50, 0x02] []) =
      some ⟨0x00, 0x00, 0x00, 0xFF, 0x1004, flags false false false false false false false, []⟩ := by decide

/-- 46_control_flow.md R228. -/
theorem test_bvs_taken :
    after 0 { start 0x1000 [0x70, 0x02] [] with p := flags false true false false false false false } =
      some ⟨0x00, 0x00, 0x00, 0xFF, 0x1004, flags false true false false false false false, []⟩ := by decide

/-- 46_control_flow.md R229. -/
theorem test_bra :
    after 0 (start 0x1000 [0x80, 0x03] []) =
      some ⟨0x00, 0x00, 0x00, 0xFF, 0x1005, flags false false false false false false false, []⟩ := by decide

/-- 95_test_vectors.md 2.1. -/
theorem test_jmp_indirect_crosses_the_page :
    after 2 (start 0x1000 [0x6C, 0xFF, 0x12] [(0x12FF, 0x00), (0x1300, 0x40), (0x1200, 0x50)]) =
      some ⟨0x00, 0x00, 0x00, 0xFF, 0x4000, flags false false false false false false false, [.read 0x12FF 0x00, .read 0x1300 0x40]⟩ := by decide

/-- 95_test_vectors.md 2.1. -/
theorem test_jmp_iax :
    after 2 { start 0x1000 [0x7C, 0x34, 0x12] [(0x1334, 0x60)] with x := 0xFF } =
      some ⟨0x00, 0xFF, 0x00, 0xFF, 0x6000, flags false false false false false false false, [.read 0x1333 0x00, .read 0x1334 0x60]⟩ := by decide

/-- 95_test_vectors.md 2.7. -/
theorem test_jsr :
    after 2 (start 0x1000 [0x20, 0x00, 0x20] []) =
      some ⟨0x00, 0x00, 0x00, 0xFD, 0x2000, flags false false false false false false false, [.write 0x01FF 0x10, .write 0x01FE 0x02]⟩ := by decide

/-- 95_test_vectors.md 2.7. -/
theorem test_rts_wraps :
    after 2 { start 0x1000 [0x60] [(0x01FE, 0xFF), (0x01FF, 0xFF)] with sp := 0xFD } =
      some ⟨0x00, 0x00, 0x00, 0xFF, 0x0000, flags false false false false false false false, [.read 0x01FE 0xFF, .read 0x01FF 0xFF]⟩ := by decide

/-- 95_test_vectors.md 2.7. -/
theorem test_rti :
    after 3 { start 0x1000 [0x40] [(0x01FD, 0x32), (0x01FE, 0x02), (0x01FF, 0x02)] with sp := 0xFC } =
      some ⟨0x00, 0x00, 0x00, 0xFF, 0x0202, flags false false true false false true false, [.read 0x01FD 0x32, .read 0x01FE 0x02, .read 0x01FF 0x02]⟩ := by decide

/-- 95_test_vectors.md S5. -/
theorem test_brk :
    after 6 { start 0x1000 [0x00, 0x00] [(0xFFFF, 0x20)] with p := flags false false false false true true false } =
      some ⟨0x00, 0x00, 0x00, 0xFC, 0x2000, flags false false true false true true false, [.read 0x1000 0x00, .write 0x01FF 0x10, .write 0x01FE 0x02, .write 0x01FD 0x36, .read 0xFFFE 0x00, .read 0xFFFF 0x20]⟩ := by decide

/-- 47_system.md R243. -/
theorem test_nop :
    after 1 (start 0x1000 [0xEA] []) =
      some ⟨0x00, 0x00, 0x00, 0xFF, 0x1001, flags false false false false false false false, [.read 0x1000 0xEA]⟩ := by decide

/-- 47_system.md R244. -/
theorem test_clc :
    after 0 { start 0x1000 [0x18] [] with p := flags true true true true true true true } =
      some ⟨0x00, 0x00, 0x00, 0xFF, 0x1001, flags true true true true true true false, []⟩ := by decide

/-- 47_system.md R245. -/
theorem test_sec :
    after 0 (start 0x1000 [0x38] []) =
      some ⟨0x00, 0x00, 0x00, 0xFF, 0x1001, flags false false false false false false true, []⟩ := by decide

/-- 47_system.md R246. -/
theorem test_cli :
    after 0 { start 0x1000 [0x58] [] with p := flags true true true true true true true } =
      some ⟨0x00, 0x00, 0x00, 0xFF, 0x1001, flags true true true true false true true, []⟩ := by decide

/-- 47_system.md R247. -/
theorem test_sei :
    after 0 (start 0x1000 [0x78] []) =
      some ⟨0x00, 0x00, 0x00, 0xFF, 0x1001, flags false false false false true false false, []⟩ := by decide

/-- 47_system.md R248. -/
theorem test_cld :
    after 0 { start 0x1000 [0xD8] [] with p := flags true true true true true true true } =
      some ⟨0x00, 0x00, 0x00, 0xFF, 0x1001, flags true true true false true true true, []⟩ := by decide

/-- 47_system.md R249. -/
theorem test_sed :
    after 0 (start 0x1000 [0xF8] []) =
      some ⟨0x00, 0x00, 0x00, 0xFF, 0x1001, flags false false false true false false false, []⟩ := by decide

/-- 47_system.md R250. -/
theorem test_clv :
    after 0 { start 0x1000 [0xB8] [] with p := flags true true true true true true true } =
      some ⟨0x00, 0x00, 0x00, 0xFF, 0x1001, flags true false true true true true true, []⟩ := by decide

/-- 95_test_vectors.md V1. -/
theorem test_undef_nop1 :
    after 1 (start 0x1000 [0x02] []) =
      some ⟨0x00, 0x00, 0x00, 0xFF, 0x1001, flags false false false false false false false, [.read 0x1000 0x02]⟩ := by decide

/-- 95_test_vectors.md V3 (the boundary of the STP step enters the NMI). -/
theorem test_stp_with_nmi_pending :
    after 5 { start 0x3000 [0xDB] [(0xFFFB, 0x40)] with p := flags false false false false true true false, nmiPending := true } =
      some ⟨0x00, 0x00, 0x00, 0xFC, 0x4000, flags false false false false true true false, [.write 0x01FF 0x30, .write 0x01FE 0x01, .write 0x01FD 0x36, .read 0xFFFA 0x00, .read 0xFFFB 0x40]⟩ := by decide

/-- 47_system.md R241 (serviced in the same step). -/
theorem test_wai_with_nmi_pending :
    after 5 { start 0x3000 [0xCB] [(0xFFFB, 0x50)] with p := flags false false false false true true false, nmiPending := true } =
      some ⟨0x00, 0x00, 0x00, 0xFC, 0x5000, flags false false false false true true false, [.write 0x01FF 0x30, .write 0x01FE 0x01, .write 0x01FD 0x36, .read 0xFFFA 0x00, .read 0xFFFB 0x50]⟩ := by decide

/-- 95_test_vectors.md V5, S12. -/
theorem test_nmi_before_irq :
    after 5 { start 0x3000 [0x58] [(0xFFFB, 0x40), (0xFFFF, 0x50)] with p := flags false false false false true true false, nmiPending := true, irqPending := true } =
      some ⟨0x00, 0x00, 0x00, 0xFC, 0x4000, flags false false false false true true false, [.write 0x01FF 0x30, .write 0x01FE 0x01, .write 0x01FD 0x32, .read 0xFFFA 0x00, .read 0xFFFB 0x40]⟩ := by decide

/-- The latches after a step. -/
def latches (s : State) : Option (Bool × Bool × Bool × Bool) :=
  match step s with
  | .next t => some (t.suspended, t.halted, t.irqPending, t.nmiPending)
  | _ => none

/-- 95_test_vectors.md V3: halted stays set, the NMI latch is consumed. -/
theorem test_stp_latches : latches { start 0x3000 [0xDB] [] with nmiPending := true } = some (false, true, false, false) := by decide

/-- 95_test_vectors.md V4: a masked IRQ does not wake WAI. -/
theorem test_masked_irq_does_not_wake :
    latches { start 0x3001 [] [] with suspended := true, irqPending := true, p := flags false false false false true true false } =
      some (true, false, true, false) := by decide

/-- 95_test_vectors.md P3, item 5: an IRQ wakes it; the request stays. -/
theorem test_irq_wakes :
    latches { start 0x0202 [] [(0xFFFF, 0x03)] with suspended := true, irqPending := true } = some (false, false, true, false) := by
  decide

/-- 95_test_vectors.md V2: the fault, its address, and the state it leaves. -/
theorem test_undef_fault :
    step { start 0x1000 [0x02] [] with params := { undefPolicy := .fault, zpPtrWrap := true }, nmiPending := true } =
      .fault (.undefinedOpcode 0x02 0x1000
        { start 0x1000 [0x02] [] with
          params := { undefPolicy := .fault, zpPtrWrap := true }
          nmiPending := true
          pc := 0x1001
          bus := [.read 0x1000 0x02] }) := rfl

/-- 95_test_vectors.md S11: reset from an empty memory with a vector, and its two reads in order. -/
theorem test_reset :
    let t := hostReset false { start 0x1234 [] [(0xFFFD, 0x02)] with a := 0x55, sp := 0x10, halted := true }
    view 2 t = ⟨0x00, 0x00, 0x00, 0xFF, 0x0200, flags false false false false true true false,
      [.read 0xFFFC 0x00, .read 0xFFFD 0x02]⟩ ∧ t.halted = false := by decide

/-- 95_test_vectors.md V8: a faithful reset keeps the registers. -/
theorem test_faithful_reset :
    view 0 (hostReset true { start 0x4000 [] [(0xFFFD, 0x30)] with a := 0x55, sp := 0xFC, halted := true }) =
      ⟨0x55, 0x00, 0x00, 0xFC, 0x3000, flags false false false false true false false, []⟩ := by decide

/-- State.reset is the non-faithful reset of an empty machine at power-on, whatever its registers (10_state.md R38). -/
theorem test_reset_state (a x y sp : Byte) (pc : Word) (p : Flags) (suspended halted : Bool) :
    State.reset = hostReset false
      (State.powerOn { a, x, y, sp, pc, p, suspended, halted, irqPending := false, nmiPending := false } [] []
        { undefPolicy := .nop1, zpPtrWrap := true }) := by
  apply State.ext <;> simp [hostReset, memRead16, busRead, answer, isDevice, State.powerOn, State.reset, resetVector, peek] <;>
    decide

/-- The state a run leaves. -/
def runState (inputs : List HostInput) (s : State) : State :=
  match runInputs inputs s with
  | .next t => t
  | _ => s

/-- 70_reset_and_hazards.md R402, 93_implementation_defined.md part 1: a step at power-on is refused, whatever was drawn and
whatever request was raised; after a faithful reset it runs (of D and I, 10_state.md R38). -/
theorem test_step_before_reset (draw : PowerOn) (mem : Memory) (devices : List Window) (params : Params) :
    let s := State.powerOn draw mem devices params
    runEnd [.raiseIRQ, .step, .reset true] s = .outsideModel .stepBeforeReset ∧
    (let t := runState [.reset true] s; t.wasReset = true ∧ t.p.d = false ∧ t.p.i = true ∧ t.a = draw.a) :=
  ⟨rfl, rfl, rfl, rfl, rfl⟩

/-- 70_reset_and_hazards.md R409: STP ends the run with Halted reached, NOP leaves it to the host's budget. -/
theorem test_run_ends :
    (match runEnd [.step, .step] (start 0x1000 [0xDB, 0xEA] []) with
      | .haltedReached t => t.pc = 0x1001
      | _ => False) ∧
    (match runEnd [.step] (start 0x1000 [0xEA, 0xDB] []) with
      | .budgetSpent t => t.pc = 0x1001
      | _ => False) := ⟨rfl, rfl⟩

/-- 95_test_vectors.md V7: two raises give one entry; V6: setOverflow while Halted. -/
theorem test_host_signals :
    latches (raiseNMI (raiseNMI (start 0x1000 [0xEA] []))) = some (false, false, false, false) ∧
    (setOverflow { start 0x1000 [] [] with halted := true }).p.v = true := by decide

/-- The word placed by the host's `withFetchWord` is the instruction the first step after reset runs. -/
theorem test_with_fetch_word :
    after 2 (State.reset.withFetchWord 16 0x50A9) =
      some ⟨0x50, 0x00, 0x00, 0xFF, 0x0002, flags false false false false true false false,
        [.read 0x0000 0xA9, .read 0x0001 0x50]⟩ := by decide

/-- A write keeps the canonical form: a byte rewritten with what an unlisted address reads as leaves no entry. -/
theorem test_memory_canonical :
    Memory.set (Memory.set [(0x10, 0x01)] 0x05 0x02) 0x10 0x00 = [(0x05, 0x02)] ∧
      Memory.set [(0x10, 0x01)] 0x05 0x02 = [(0x05, 0x02), (0x10, 0x01)] := by decide

/-! Witnesses: for each statement with hypotheses, states and operands that meet them, at the ends of their ranges. -/

/-- A state with the instruction's bytes at PC and a pushed-down stack pointer. -/
def withSp (sp : Byte) (bytes : List Byte) : State := { start 0xFFFF bytes [] with sp := sp }

/-- DecodeOfEncode: a form of each shape is well-formed. -/
theorem test_hyp_DecodeOfEncode :
    [Instr.adc (.mem (.ziy 0xFF)), .jmp (.iax 0xFFFF), .asl .acc, .bra 0x80, .brk, .undef 0xFF].all Instr.wf = true := by decide

/-- EncodeOfDecode: a list that decodes, with bytes left over. -/
theorem test_hyp_EncodeOfDecode : decode [0x7D, 0xFF, 0x02, 0xCA] = .ok (.adc (.mem (.abx 0x02FF)), [0xCA]) := rfl

/-- StepRunsDecodedInstruction: an instruction across the end of the address space, in plain memory. -/
theorem test_hyp_StepRunsDecodedInstruction :
    let s := withSp 0xFF [0xAD, 0x34, 0x12]
    s.wasReset = true ∧ s.halted = false ∧ s.suspended = false ∧ isDevice s s.pc = false ∧
      decode (Stmt.fetchSeq 3 s).1 = .ok (.lda (.mem (.abs 0x1234)), []) := ⟨rfl, rfl, rfl, rfl, rfl⟩

/-- WaitingStepsFetchNothing: a Halted state, and a Suspended one for each disjunct. -/
theorem test_hyp_WaitingStepsFetchNothing :
    (let s := { State.reset with halted := true }; s.wasReset = true ∧ s.halted = true) ∧
    (let s := { State.reset with suspended := true, irqPending := true };
      s.wasReset = true ∧ s.halted = false ∧ s.suspended = true ∧ s.nmiPending = false ∧ s.p.i = true) ∧
    (let s := { start 0 [] [] with suspended := true };
      s.wasReset = true ∧ s.halted = false ∧ s.suspended = true ∧ s.nmiPending = false ∧ s.irqPending = false) := by decide

/-- StepsAndRunsStopAsListed: the policy and the mark of the state after reset, inputs of both kinds from power-on, and a run
to each end of 70_reset_and_hazards.md R409. -/
theorem test_hyp_StepsAndRunsStopAsListed :
    (State.reset.params.undefPolicy = .nop1 ∧ State.reset.wasReset = true) ∧
    (Stmt.resetBeforeStep [.raiseNMI, .reset true, .step] = true ∧ Stmt.resetBeforeStep [.raiseNMI, .step, .reset true] = false) ∧
    (let s := start 0x1000 [0xDB] []; runEnd [.step] s = .haltedReached (runState [.step] s)) ∧
    (∃ r, runEnd [.step] { start 0x1000 [0x02] [] with params := { undefPolicy := .fault, zpPtrWrap := true } } =
      .faultOutcome r) := ⟨⟨rfl, rfl⟩, ⟨rfl, rfl⟩, rfl, _, rfl⟩

/-- SbcIsAdcOfComplement, OverflowIsSignedOverflow; both branches of the adders' `D`. -/
theorem test_hyp_binary_and_decimal : (start 0 [] []).p.d = false ∧ { start 0 [] [] with p := unpackP 0x08 }.p.d = true := by decide

/-- DecimalAddOfDigits, DecimalSubtractOfDigits: the largest and the smallest digits. -/
theorem test_hyp_DecimalDigits :
    (let s := { start 0 [] [] with a := 0x99, p := unpackP 0x09 };
      s.p.d = true ∧ s.a.toNat = 9 * 16 + 9 ∧ (0x99 : Byte).toNat = 9 * 16 + 9) ∧
    (let s := { start 0 [] [] with p := unpackP 0x08 };
      s.p.d = true ∧ s.a.toNat = 0 * 16 + 0 ∧ (0x00 : Byte).toNat = 0 * 16 + 0) := by decide

/-- StoreIsSeenByTheNextFetch: the last address, in plain memory. -/
theorem test_hyp_StoreIsSeenByTheNextFetch : isDevice State.reset (resolve (.abs 0xFFFF) State.reset).1 = false := rfl

/-- A device's window, for the clauses of MemoryAfter on a device: the address is one of its own. -/
theorem test_hyp_device_address :
    let s := { State.reset with devices := [{ first := 0x8000, last := 0x80FF }] }
    isDevice s 0x8000 = true ∧ isDevice s 0x80FF = true ∧ isDevice s 0x8100 = false ∧ isDevice s 0x7FFF = false := by decide

/-- PushedStatusPullsBack, PushedWordPullsBack, RtsUndoesJsr, RtiUndoesInterruptEntry: a stack in plain memory, at both ends
of the page. -/
theorem test_hyp_plain_stack :
    [(0x00 : Byte), 0x01, 0xFF].all (fun sp =>
      let s := withSp sp []
      !isDevice s (Stmt.stackAt s.sp) && !isDevice s (Stmt.stackAt (s.sp - 1#8)) && !isDevice s (Stmt.stackAt (s.sp - 2#8))) = true := by
  decide

/-- BranchesFollowTheirCondition: every condition holds in one state and fails in another. -/
theorem test_hyp_BranchesFollowTheirCondition :
    (let p := { start 0 [] [] with p := unpackP 0xFF }.p;
      p.c = true ∧ p.z = true ∧ p.n = true ∧ p.v = true) ∧
    (let p := (start 0 [] []).p;
      p.c = false ∧ p.z = false ∧ p.n = false ∧ p.v = false) := by decide

/-- BoundaryResolvesNmiThenIrq: each of its cases. -/
theorem test_hyp_BoundaryResolvesNmiThenIrq :
    { State.reset with nmiPending := true }.nmiPending = true ∧
    (let s := { start 0 [] [] with irqPending := true };
      s.nmiPending = false ∧ s.irqPending = true ∧ s.p.i = false) ∧
    (let s := { State.reset with irqPending := true };
      s.nmiPending = false ∧ s.p.i = true) ∧
    (State.reset.nmiPending = false ∧ State.reset.irqPending = false) := by decide

/-- NmiIsServicedBeforeIrq: a step with both requests pending ends in a next state. -/
theorem test_hyp_NmiIsServicedBeforeIrq :
    let s := { start 0x1000 [0x58] [] with nmiPending := true, irqPending := true }
    s.halted = false ∧ s.nmiPending = true ∧ ∃ t, step s = .next t := ⟨rfl, rfl, _, rfl⟩

/-- MaskChangesActAtTheSameBoundary: a CLI and a SEI at PC with an IRQ pending. -/
theorem test_hyp_MaskChangesActAtTheSameBoundary :
    let s := { start 0xFFFF [0x58] [] with irqPending := true }
    let t := { start 0x1000 [0x78] [] with irqPending := true }
    (s.wasReset = true ∧ s.halted = false ∧ s.suspended = false ∧ s.nmiPending = false ∧ s.irqPending = true ∧ (fetchInstr s).1 = .cli) ∧
    (t.wasReset = true ∧ t.halted = false ∧ t.suspended = false ∧ t.nmiPending = false ∧ t.irqPending = true ∧ (fetchInstr t).1 = .sei) := by decide

/-- UndefinedOpcodeFollowsThePolicy: the first and the last undefined opcode, under FAULT. -/
theorem test_hyp_UndefinedOpcodeFollowsThePolicy :
    [(0x02 : Byte), 0xFF].all (fun op =>
      let s := { start 0xFFFF [op] [] with params := { undefPolicy := .fault, zpPtrWrap := true } }
      decide (s.params.undefPolicy = .fault) && s.wasReset && !s.halted && !s.suspended && undefinedOpcodes.contains (fetch8 s).1) = true := by
  decide

/-- HostSignalsSetTheirLatch, RequestLatchesChangeAsListed: an NMI already pending. -/
theorem test_hyp_nmi_pending : { State.reset with nmiPending := true }.nmiPending = true := rfl

/-- StepKeepsSound, EveryRunKeepsSound, MemoryChangesOnlyByBusWrites: a sound state with a store at PC, its step and a run. -/
theorem test_hyp_StepKeepsSound :
    let s := start 0x1000 [0x8D, 0xFF, 0xFF] []
    Sound s ∧ (∃ t, step s = .next t) ∧ ∃ t, runInputs [.raiseNMI, .step, .reset true] s = .next t :=
  ⟨⟨by decide, by decide⟩, ⟨_, rfl⟩, _, rfl⟩

/-- InstructionsMakeTheListedTransactions, OnlyStoringInstructionsChangeMemory: an instruction that ends in a next state. -/
theorem test_hyp_instruction_completes :
    (∃ t, exec (.jmp (.iax 0xFFFF)) State.reset = .next t) ∧ Stmt.writesOf (.jmp (.iax 0xFFFF)) = 0 := ⟨⟨_, rfl⟩, rfl⟩

/-- FlagsAreWrittenOnlyByTheListed, RegistersAreWrittenOnlyByTheListed: NOP meets every clause. -/
theorem test_hyp_written_only_by_the_listed :
    (∃ t, exec .nop State.reset = .next t) ∧
    [Stmt.writesN, Stmt.writesV, Stmt.writesB, Stmt.writesD, Stmt.writesI, Stmt.writesZ, Stmt.writesC, Stmt.writesA, Stmt.writesX,
      Stmt.writesY, Stmt.writesSP, Stmt.writesPC].all (fun f => !f .nop) = true := ⟨⟨_, rfl⟩, by decide⟩

/-- RequestLatchesChangeAsListed: a step that consumes the NMI latch, an input that sets it, one that leaves the IRQ level. -/
theorem test_hyp_RequestLatchesChangeAsListed :
    (let s := { start 0x1000 [0xEA] [] with nmiPending := true };
      s.nmiPending = true ∧ latches s = some (false, false, false, false)) ∧
    (State.reset.nmiPending = false ∧ (raiseNMI State.reset).nmiPending = true) ∧
    transition .setOverflow State.reset = .next (setOverflow State.reset) := ⟨⟨rfl, by decide⟩, ⟨rfl, rfl⟩, rfl⟩

/-- PowerStatesChangeAsListed: the steps and the reset that set and clear the two latches. -/
theorem test_hyp_PowerStatesChangeAsListed :
    latches (start 0x1000 [0xCB] []) = some (true, false, false, false) ∧
    latches (start 0x1000 [0xDB] []) = some (false, true, false, false) ∧
    latches { start 0x1000 [] [] with suspended := true, nmiPending := true } = some (false, false, false, false) ∧
    latches { start 0x1000 [] [] with suspended := true, irqPending := true } = some (false, false, true, false) ∧
    (hostReset true { State.reset with halted := true }).halted = false ∧
    (hostReset false { State.reset with suspended := true }).suspended = false ∧
    latches { State.reset with halted := true } = some (false, true, false, false) := by decide

end Sys2Proof.Tests
end

section
/-! PROOFS. The family 00_scope.md: which bytes fetch an undefined opcode, where a step can stop, and how runs end. -/

namespace Sys2Proof

/-- The row of an undefined opcode. -/
def Entry.isUndef : Entry → Bool
  | .undef => true
  | _ => false

/-- A row with a mnemonic makes no undefined opcode, whatever its operand. -/
def Entry.MakesDefined : Entry → Prop
  | .op i | .sig i => ∀ op, i ≠ .undef op
  | .b8 f => ∀ b op, f b ≠ .undef op
  | .w16 f => ∀ w op, f w ≠ .undef op
  | .undef => True

theorem opcodeTable_length : opcodeTable.length = 256 := by
  simp only [opcodeTable, List.length_append]
  rfl

theorem toNat_lt_opcodeTable_length (op : Byte) : op.toNat < opcodeTable.length := by
  rw [opcodeTable_length]
  exact op.isLt

theorem entryOf_eq_getElem (op : Byte) : entryOf op = opcodeTable[op.toNat]'(toNat_lt_opcodeTable_length op) :=
  List.getD_eq_getElem _ _ _

/-- The rows of the opcode map that have no mnemonic stand at the bytes of 30_encoding.md R78, in their order. -/
theorem undefinedOpcodes_map_toNat : undefinedOpcodes.map BitVec.toNat = opcodeTable.findIdxs Entry.isUndef := by
  decide

theorem entryOf_isUndef_iff (op : Byte) : (entryOf op).isUndef = true ↔ op ∈ undefinedOpcodes := by
  rw [← List.mem_map_of_injective (f := BitVec.toNat) (fun _ _ => BitVec.eq_of_toNat_eq), undefinedOpcodes_map_toNat,
    List.mem_findIdxs_iff_pos_getElem (toNat_lt_opcodeTable_length op), entryOf_eq_getElem]

theorem opcodeTable_makesDefined : ∀ e ∈ opcodeTable, e.MakesDefined := by
  simp only [opcodeTable, List.forall_mem_append, opcodeRow0, opcodeRow1, opcodeRow2, opcodeRow3, opcodeRow4, opcodeRow5,
    opcodeRow6, opcodeRow7, opcodeRow8, opcodeRow9, opcodeRowA, opcodeRowB, opcodeRowC, opcodeRowD, opcodeRowE,
    opcodeRowF, List.forall_mem_cons, Entry.MakesDefined, Function.comp_apply, ne_eq, reduceCtorEq, not_false_eq_true,
    List.not_mem_nil, false_imp_iff, implies_true, and_self]

theorem entryOf_makesDefined (op : Byte) : (entryOf op).MakesDefined := by
  rw [entryOf_eq_getElem]
  exact opcodeTable_makesDefined _ (List.getElem_mem _)

end Sys2Proof

namespace Sys2Proof.Machine

open Sys2Proof.Stmt

/-- An undefined opcode is fetched only from a byte of R78, and that byte alone is read. -/
theorem fetchInstr_undef {s : State} {op : Byte} (h : (fetchInstr s).1 = .undef op) :
    op ∈ undefinedOpcodes ∧ (fetchInstr s).2 = (fetch8 s).2 := by
  have hdefined := entryOf_makesDefined (fetch8 s).1
  unfold fetchInstr at h ⊢
  dsimp only at h ⊢
  split at h <;> rename_i he
  case h_1 | h_2 =>
    rw [he] at hdefined
    exact absurd h (hdefined op)
  case h_4 | h_5 =>
    rw [he] at hdefined
    exact absurd h (hdefined _ op)
  case h_3 =>
    cases h
    exact ⟨(entryOf_isUndef_iff _).mp (by rw [he]; rfl), rfl⟩

@[simp] theorem fetchInstr_params (s : State) : (fetchInstr s).2.params = s.params := by
  unfold fetchInstr
  dsimp only
  split <;> simp

@[simp] theorem boundary_params (s : State) : (boundary s).params = s.params := by
  obtain ⟨-, h⟩ | ⟨-, -, -, h⟩ | ⟨-, -, h⟩ := boundary_cases s <;> rw [h] <;> simp [interruptEntry_fields]

/-- Every instruction completes but an undefined opcode under FAULT (47_system.md R251, 60_exceptions.md R307). -/
theorem exec_outcome (i : Instr) (s : State) :
    (∃ t, exec i s = .next t) ∨
    ∃ op, i = .undef op ∧ s.params.undefPolicy = .fault ∧ exec i s = .fault (.undefinedOpcode op (s.pc - 1#16) s) := by
  cases i
  case undef op => cases h : s.params.undefPolicy <;> simp [exec, execUndef, h]
  case bit o => cases o <;> exact .inl ⟨_, rfl⟩
  all_goals exact .inl ⟨_, rfl⟩

theorem step_before_reset {s : State} (hr : s.wasReset = false) : step s = .refused .stepBeforeReset := by
  simp [step, hr]

theorem step_of_halted {s : State} (hr : s.wasReset = true) (hh : s.halted = true) : step s = .next s := by
  simp [step, hr, hh]

/-- After the first reset a step ends in a next state or in the fault of an undefined opcode under FAULT. -/
theorem step_outcome {s : State} (hr : s.wasReset = true) :
    (∃ t, step s = .next t) ∨
    (s.params.undefPolicy = .fault ∧ s.halted = false ∧ s.suspended = false ∧
      ∃ op ∈ undefinedOpcodes, ∃ final, step s = .fault (.undefinedOpcode op s.pc final)) := by
  cases hh : s.halted
  case true => exact .inl ⟨s, step_of_halted hr hh⟩
  cases hs : s.suspended
  case true => exact .inl ⟨boundary s, by simp [step, hr, hh, hs]⟩
  have hstep : step s = finishStep (exec (fetchInstr s).1 (fetchInstr s).2) := by simp [step, hr, hh, hs]
  obtain ⟨t, ht⟩ | ⟨op, hi, hpol, hfault⟩ := exec_outcome (fetchInstr s).1 (fetchInstr s).2
  · exact .inl ⟨boundary t, by rw [hstep, ht]; rfl⟩
  · obtain ⟨hop, hfetch⟩ := fetchInstr_undef hi
    refine .inr ⟨by simpa using hpol, rfl, rfl, op, hop, (fetchInstr s).2, ?_⟩
    rw [hstep, hfault, hfetch]
    simp [finishStep]

/-- No input changes the parameters. -/
theorem transition_params {h : HostInput} {s t : State} (e : transition h s = .next t) : t.params = s.params := by
  cases h with
  | step =>
    obtain ⟨-, ⟨-, rfl⟩ | ⟨-, -, rfl⟩ | ⟨-, -, u, hu, rfl⟩⟩ := step_cases e
    · rfl
    · simp
    · rw [boundary_params, (exec_keeps hu).1, fetchInstr_params]
  | reset faithful => cases e; cases faithful <;> rfl
  | raiseIRQ | lowerIRQ | raiseNMI | setOverflow => cases e; rfl

/-- Under NOP1 every input after the first reset completes. -/
theorem transition_completes (h : HostInput) {s : State} (hr : s.wasReset = true) (hp : s.params.undefPolicy = .nop1) :
    ∃ t, transition h s = .next t := by
  cases h with
  | step =>
    obtain ht | ⟨hpol, -⟩ := step_outcome hr
    · exact ht
    · rw [hp] at hpol
      cases hpol
  | reset | raiseIRQ | lowerIRQ | raiseNMI | setOverflow => exact ⟨_, rfl⟩

/-- Under NOP1 nothing but the host ends a run after the first reset. -/
theorem safeRun_of_wasReset (inputs : List HostInput) {s : State} (hr : s.wasReset = true)
    (hp : s.params.undefPolicy = .nop1) : SafeRun inputs s := by
  induction inputs generalizing s with
  | nil => exact ⟨s, rfl⟩
  | cons h rest ih =>
    obtain ⟨t, ht⟩ := transition_completes h hr hp
    obtain ⟨u, hu⟩ := ih (transition_wasReset ht hr) (by rw [transition_params ht, hp])
    exact ⟨u, by simp [runInputs, ht, hu]⟩

/-- Under NOP1 a run whose first reset comes before its first step is safe. -/
theorem safeRun_of_resetBeforeStep {inputs : List HostInput} {s : State} (hp : s.params.undefPolicy = .nop1)
    (hb : resetBeforeStep inputs = true) : SafeRun inputs s := by
  induction inputs generalizing s with
  | nil => exact ⟨s, rfl⟩
  | cons h rest ih =>
    cases h with
    | step => cases hb
    | reset faithful =>
      have hp' : (hostReset faithful s).params.undefPolicy = .nop1 := by
        rw [transition_params (h := .reset faithful) rfl, hp]
      exact safeRun_of_wasReset rest (s := hostReset faithful s) rfl hp'
    | raiseIRQ | lowerIRQ | raiseNMI | setOverflow => exact ih hp hb

/-- A step before the first reset leaves the model (70_reset_and_hazards.md R402). -/
theorem runInputs_step_before_reset {inputs : List HostInput} {s : State} (hr : s.wasReset = false)
    (hb : resetBeforeStep inputs = false) : runInputs inputs s = .refused .stepBeforeReset := by
  induction inputs generalizing s with
  | nil => cases hb
  | cons h rest ih =>
    cases h with
    | step => simp [runInputs, transition, step_before_reset hr]
    | reset => cases hb
    | raiseIRQ | lowerIRQ | raiseNMI | setOverflow => exact ih hr hb

theorem runInputs_steps_of_halted {s : State} (hr : s.wasReset = true) (hh : s.halted = true) (n : Nat) :
    runInputs (List.replicate n .step) s = .next s := by
  induction n with
  | zero => rfl
  | succ n ih => simp [List.replicate_succ, runInputs, transition, step_of_halted hr hh, ih]

theorem runEnd_eq_haltedReached {inputs : List HostInput} {s t : State} :
    runEnd inputs s = .haltedReached t ↔ runInputs inputs s = .next t ∧ t.wasReset = true ∧ t.halted = true := by
  constructor
  · intro h
    obtain ⟨u, hu, hr, hh, he⟩ | ⟨u, -, -, he⟩ | ⟨r, -, he⟩ | ⟨r, -, he⟩ := runEnd_cases inputs s
      <;> rw [he] at h <;> cases h
    exact ⟨hu, hr, hh⟩
  · rintro ⟨hu, hr, hh⟩
    simp [runEnd, hu, endOf, hr, hh]

theorem runEnd_eq_faultOutcome {inputs : List HostInput} {s : State} {r : Fault} :
    runEnd inputs s = .faultOutcome r ↔ runInputs inputs s = .fault r := by
  obtain ⟨u, hu, -, -, he⟩ | ⟨u, hu, -, he⟩ | ⟨q, hu, he⟩ | ⟨q, hu, he⟩ := runEnd_cases inputs s
    <;> simp [hu, he]

/-- Halted reached stays through further steps (70_reset_and_hazards.md R409). -/
theorem runEnd_haltedReached_append {inputs : List HostInput} {s t : State} (n : Nat)
    (h : runEnd inputs s = .haltedReached t) : runEnd (inputs ++ List.replicate n HostInput.step) s = .haltedReached t := by
  obtain ⟨hrun, hr, hh⟩ := runEnd_eq_haltedReached.mp h
  refine runEnd_eq_haltedReached.mpr ⟨?_, hr, hh⟩
  rw [runInputs_append, hrun]
  exact runInputs_steps_of_halted hr hh n

/-- The fault outcome stays through any further inputs (60_exceptions.md R307). -/
theorem runEnd_faultOutcome_append {inputs : List HostInput} {s : State} {r : Fault} (more : List HostInput)
    (h : runEnd inputs s = .faultOutcome r) : runEnd (inputs ++ more) s = .faultOutcome r := by
  rw [runEnd_eq_faultOutcome] at h ⊢
  rw [runInputs_append, h]

/-- Settles O7: a step is refused exactly before the first reset and faults only at an undefined opcode under FAULT, so
runs end as listed, by induction over their inputs. -/
theorem stepsAndRunsStopAsListed : Obligations.StepsAndRunsStopAsListed := by
  refine ⟨fun s => ?_, fun inputs draw mem devices params => ⟨fun hb => ?_, fun hp hb => ?_⟩,
    fun inputs _ hr hp => safeRun_of_wasReset inputs hr hp, fun n _ _ _ h => runEnd_haltedReached_append n h,
    fun _ more _ _ h => runEnd_faultOutcome_append more h⟩
  · cases hr : s.wasReset
    · exact .inl ⟨rfl, step_before_reset hr⟩
    · exact .inr ⟨rfl, step_outcome hr⟩
  · rw [runEnd, runInputs_step_before_reset rfl hb]
    rfl
  · exact safeRun_of_resetBeforeStep hp hb

end Sys2Proof.Machine
end

section
/-! PROOFS. The family 10_state.md: the invariant of every run, the packed status, which instructions write which flag and
register, and what sets and clears the latches. -/

namespace Sys2Proof

/-- The bytes a row's descriptor counts are the bytes the core fetches of its instruction, BRK's signature excepted. -/
def Entry.FetchesItsBytes : Entry → Prop
  | .op i | .sig i => Stmt.fetchedBytes i = 1
  | .b8 f => ∀ b, Stmt.fetchedBytes (f b) = 2
  | .w16 f => ∀ w, Stmt.fetchedBytes (f w) = 3
  | .undef => True

theorem opcodeTable_fetchesItsBytes : ∀ e ∈ opcodeTable, e.FetchesItsBytes := by
  simp only [opcodeTable, List.forall_mem_append, opcodeRow0, opcodeRow1, opcodeRow2, opcodeRow3, opcodeRow4, opcodeRow5,
    opcodeRow6, opcodeRow7, opcodeRow8, opcodeRow9, opcodeRowA, opcodeRowB, opcodeRowC, opcodeRowD, opcodeRowE,
    opcodeRowF, List.forall_mem_cons, Entry.FetchesItsBytes, Function.comp_apply, Stmt.fetchedBytes, Instr.length,
    Operand.bytes, Target.bytes, Addr.bytes, List.length_cons, List.length_nil, reduceCtorEq, if_true, if_false,
    Nat.reduceAdd, List.not_mem_nil, false_imp_iff, implies_true, and_self]

theorem entryOf_fetchesItsBytes (op : Byte) : (entryOf op).FetchesItsBytes := by
  rw [entryOf_eq_getElem]
  exact opcodeTable_fetchesItsBytes _ (List.getElem_mem _)

end Sys2Proof

namespace Sys2Proof.Machine

/-! The fetch and the boundary, field by field. -/

/-- A fetch changes nothing but PC and the record of transactions. -/
theorem fetchInstr_snd (s : State) :
    (fetchInstr s).2 = { s with pc := (fetchInstr s).2.pc, bus := (fetchInstr s).2.bus } := by
  unfold fetchInstr
  dsimp only
  split <;> rfl

@[simp] theorem fetchInstr_suspended (s : State) : (fetchInstr s).2.suspended = s.suspended := by rw [fetchInstr_snd]
@[simp] theorem fetchInstr_halted (s : State) : (fetchInstr s).2.halted = s.halted := by rw [fetchInstr_snd]
@[simp] theorem fetchInstr_irqPending (s : State) : (fetchInstr s).2.irqPending = s.irqPending := by rw [fetchInstr_snd]
@[simp] theorem fetchInstr_nmiPending (s : State) : (fetchInstr s).2.nmiPending = s.nmiPending := by rw [fetchInstr_snd]
@[simp] theorem fetchInstr_mem (s : State) : (fetchInstr s).2.mem = s.mem := by rw [fetchInstr_snd]

@[simp] theorem interruptEntry_suspended (vec : Word) (s : State) : (interruptEntry vec s).suspended = false := by
  simp [interruptEntry_fields]

@[simp] theorem boundary_halted (s : State) : (boundary s).halted = s.halted := by
  obtain ⟨-, h⟩ | ⟨-, -, -, h⟩ | ⟨-, -, h⟩ := boundary_cases s <;> rw [h] <;> simp [interruptEntry_fields]

@[simp] theorem boundary_irqPending (s : State) : (boundary s).irqPending = s.irqPending := by
  obtain ⟨-, h⟩ | ⟨-, -, -, h⟩ | ⟨-, -, h⟩ := boundary_cases s <;> rw [h] <;> simp [interruptEntry_fields]

/-- After a boundary no NMI is pending: a pending one was serviced (60_exceptions.md R303). -/
@[simp] theorem boundary_nmiPending (s : State) : (boundary s).nmiPending = false := by
  obtain ⟨-, h⟩ | ⟨hn, -, -, h⟩ | ⟨hn, -, h⟩ := boundary_cases s <;> rw [h]
  · simp [interruptEntry_fields]
  · simpa [interruptEntry_fields] using hn
  · exact hn

theorem boundary_of_nmiPending {s : State} (hn : s.nmiPending = true) :
    boundary s = interruptEntry nmiVector { s with nmiPending := false } := by
  simp [boundary, hn]

/-- A boundary sets no power latch: what is suspended after it was suspended before it. -/
theorem suspended_of_boundary {s : State} (hs : (boundary s).suspended = true) : s.suspended = true := by
  obtain ⟨-, h⟩ | ⟨-, -, -, h⟩ | ⟨-, -, h⟩ := boundary_cases s <;> rw [h] at hs
  · simp at hs
  · simp at hs
  · exact hs

/-- A boundary ends suspension only by an interrupt entry (10_state.md R31, 60_exceptions.md R304). -/
theorem boundary_resumes {s : State} (hs : s.suspended = true) (hb : (boundary s).suspended = false) :
    (s.nmiPending = true ∧ boundary s = interruptEntry nmiVector { s with nmiPending := false }) ∨
    (s.nmiPending = false ∧ s.irqPending = true ∧ s.p.i = false ∧ boundary s = interruptEntry irqVector s) := by
  obtain h | h | ⟨-, -, h⟩ := boundary_cases s
  · exact .inl h
  · exact .inr h
  · rw [h, hs] at hb
    cases hb

/-! The latches through an instruction and a step. -/

theorem exec_irqPending {i : Instr} {s t : State} (h : exec i s = .next t) : t.irqPending = s.irqPending := by
  rw [(exec_keeps h).1]

theorem exec_nmiPending {i : Instr} {s t : State} (h : exec i s = .next t) : t.nmiPending = s.nmiPending := by
  rw [(exec_keeps h).1]

/-- Only STP sets `halted` (10_state.md R32). -/
theorem exec_halted {i : Instr} {s t : State} (h : exec i s = .next t) (hi : i ≠ .stp) : t.halted = s.halted :=
  (exec_keeps h).2.1 hi

/-- Only WAI sets `suspended` (10_state.md R31). -/
theorem eq_wai_of_suspended {i : Instr} {s t : State} (h : exec i s = .next t) (hs : s.suspended = false)
    (ht : t.suspended = true) : i = .wai := by
  obtain ⟨-, -, hkeep, hbrk⟩ := exec_keeps h
  by_contra hw
  by_cases hb : i = .brk
  · rw [hbrk hb] at ht
    cases ht
  · rw [hkeep hw hb, hs] at ht
    cases ht

theorem eq_stp_of_halted {i : Instr} {s t : State} (h : exec i s = .next t) (hs : s.halted = false)
    (ht : t.halted = true) : i = .stp := by
  by_contra hi
  rw [exec_halted h hi, hs] at ht
  cases ht

/-- An instruction run in the Running state sets one power latch at most: WAI leaves `halted` alone. -/
theorem exec_oneLatch {i : Instr} {s t : State} (h : exec i s = .next t) (hs : s.suspended = false)
    (hh : s.halted = false) : ¬(t.suspended = true ∧ t.halted = true) := by
  rintro ⟨ts, th⟩
  have hw := eq_wai_of_suspended h hs ts
  rw [eq_stp_of_halted h hh th] at hw
  cases hw

/-! What a branch and an undefined opcode leave. -/

/-- A branch changes PC alone. -/
theorem branch_eq (cond : Bool) (rel : Byte) (s : State) :
    branch cond rel s = { s with pc := (branch cond rel s).pc } := by
  unfold branch
  split <;> rfl

theorem eq_of_exec_undef {op : Byte} {s t : State} (h : exec (.undef op) s = .next t) : t = s := by
  simp only [exec, execUndef] at h
  split at h <;> cases h
  rfl

/-! Memory keeps its canonical form (log 4). -/

theorem storeAt_wf (m : Addr) (v : Byte) {s : State} (h : Memory.wf s.mem) : Memory.wf (storeAt m v s).mem := by
  rw [storeAt_mem]
  exact busWrite_wf _ _ _ h

theorem testAndWrite_wf (f : Byte → Byte → Byte) (m : Addr) {s : State} (h : Memory.wf s.mem) :
    Memory.wf (testAndWrite f m s).mem :=
  busWrite_wf _ _ _ (by simpa using h)

theorem modifyTarget_wf (f : Byte → Flags → Byte × Flags) (r : Target) {s : State} (h : Memory.wf s.mem) :
    Memory.wf (modifyTarget f r s).mem := by
  cases r with
  | acc => exact h
  | mem m => exact busWrite_wf _ _ _ (by simpa using h)

theorem push16_wf (w : Word) {s : State} (h : Memory.wf s.mem) : Memory.wf (push16 w s).mem :=
  push8_wf _ _ (push8_wf _ _ h)

theorem interruptEntry_wf (vec : Word) {s : State} (h : Memory.wf s.mem) : Memory.wf (interruptEntry vec s).mem := by
  rw [interruptEntry_mem]
  exact push8_wf _ _ (push16_wf s.pc h)

theorem boundary_wf {s : State} (h : Memory.wf s.mem) : Memory.wf (boundary s).mem := by
  obtain ⟨-, hb⟩ | ⟨-, -, -, hb⟩ | ⟨-, -, hb⟩ := boundary_cases s <;> rw [hb]
  · exact interruptEntry_wf nmiVector h
  · exact interruptEntry_wf irqVector h
  · exact h

open Stmt in
/-- An instruction that lists no write leaves memory alone (20_memory.md R56). -/
theorem exec_mem {i : Instr} {s t : State} (h : exec i s = .next t) (hw : writesOf i = 0) : t.mem = s.mem := by
  cases i
  case adc o | sbc o => cases h; simp [addLike]
  case cmp o | cpx o | cpy o => cases h; simp [compareWith]
  case and o | ora o | eor o => cases h; simp [logicInto]
  case lda o | ldx o | ldy o => cases h; simp
  case bit o => cases o <;> cases h <;> simp
  case asl r | lsr r | rol r | ror r | inc r | dec r =>
    cases r with
    | acc => cases h; rfl
    | mem m => cases hw
  case bcc | bcs | beq | bne | bmi | bpl | bvc | bvs | bra => cases h; rw [branch_eq]
  case jmp m => cases h; simp
  case undef op => rw [eq_of_exec_undef h]
  case trb | tsb | sta | stx | sty | stz | pha | php | phx | phy | jsr | brk => cases hw
  all_goals cases h; rfl

theorem exec_wf {i : Instr} {s t : State} (h : exec i s = .next t) (hm : Memory.wf s.mem) : Memory.wf t.mem := by
  cases i
  case sta m | stx m | sty m | stz m => cases h; exact storeAt_wf m _ hm
  case trb m | tsb m => cases h; exact testAndWrite_wf _ m hm
  case asl r | lsr r | rol r | ror r | inc r | dec r => cases h; exact modifyTarget_wf _ r hm
  case pha | php | phx | phy => cases h; exact push8_wf _ _ hm
  case jsr w => cases h; exact push16_wf _ hm
  case brk => cases h; exact interruptEntry_wf irqVector hm
  all_goals rw [exec_mem h rfl]; exact hm

/-! The invariant. -/

theorem boundary_sound {s : State} (h : Sound s) : Sound (boundary s) where
  oneLatch := fun ⟨hs, hh⟩ => h.oneLatch ⟨suspended_of_boundary hs, by simpa using hh⟩
  memory := boundary_wf h.memory

theorem step_sound {s t : State} (hs : Sound s) (h : step s = .next t) : Sound t := by
  obtain ⟨-, ⟨-, rfl⟩ | ⟨-, -, rfl⟩ | ⟨hh, hsus, u, hu, rfl⟩⟩ := step_cases h
  · exact hs
  · exact boundary_sound hs
  · have hu_sound : Sound u :=
      ⟨exec_oneLatch hu (by simpa using hsus) (by simpa using hh), exec_wf hu (by simpa using hs.memory)⟩
    exact boundary_sound hu_sound

@[simp] theorem hostReset_suspended (faithful : Bool) (s : State) : (hostReset faithful s).suspended = false := rfl

@[simp] theorem hostReset_halted (faithful : Bool) (s : State) : (hostReset faithful s).halted = false := rfl

@[simp] theorem hostReset_mem (faithful : Bool) (s : State) : (hostReset faithful s).mem = s.mem := by cases faithful <;> rfl

@[simp] theorem hostReset_irqPending (faithful : Bool) (s : State) : (hostReset faithful s).irqPending = s.irqPending := by
  cases faithful <;> rfl

@[simp] theorem hostReset_nmiPending (faithful : Bool) (s : State) : (hostReset faithful s).nmiPending = s.nmiPending := by
  cases faithful <;> rfl

theorem transition_sound {h : HostInput} {s t : State} (hs : Sound s) (e : transition h s = .next t) : Sound t := by
  cases h with
  | step => exact step_sound hs e
  | reset faithful =>
    cases e
    exact ⟨by simp, by simpa using hs.memory⟩
  | raiseIRQ | lowerIRQ | raiseNMI | setOverflow => cases e; exact ⟨hs.oneLatch, hs.memory⟩

theorem runInputs_sound {inputs : List HostInput} {s t : State} (hs : Sound s) (e : runInputs inputs s = .next t) :
    Sound t := by
  induction inputs generalizing s with
  | nil =>
    cases e
    exact hs
  | cons h rest ih =>
    rw [runInputs] at e
    cases hu : transition h s with
    | next u =>
      rw [hu] at e
      exact ih (transition_sound hs hu) e
    | fault r | refused r =>
      rw [hu] at e
      cases e

/-- Settles O52: a step from a sound state is the same state, its boundary, or an instruction from Running and then the
boundary, and each keeps the invariant. -/
theorem stepKeepsSound : Obligations.StepKeepsSound :=
  fun _ _ => step_sound

/-- Settles O53, by induction over the inputs of the run. -/
theorem everyRunKeepsSound : Obligations.EveryRunKeepsSound :=
  fun _ _ _ => runInputs_sound

/-! The status byte (10_state.md R27 to R29). -/

/-- Settles O28, bit by bit. -/
theorem packedStatusHoldsTheFlags : Obligations.PackedStatusHoldsTheFlags := fun p =>
  ⟨packP_bit p 7 (by decide), packP_bit p 6 (by decide), packP_bit p 5 (by decide), packP_bit p 4 (by decide),
    packP_bit p 3 (by decide), packP_bit p 2 (by decide), packP_bit p 1 (by decide), packP_bit p 0 (by decide)⟩

/-- Unpacking a packed status gives back every flag, with `B` set. -/
@[simp] theorem unpackP_packP (p : Flags) : unpackP (packP p) = { p with b := true } := by
  simp [unpackP, packP_bit]

theorem stackAddr_eq_stackAt (sp : Byte) : stackAddr sp = Stmt.stackAt sp := by
  apply BitVec.eq_of_toNat_eq
  rw [stackAddr_toNat, Stmt.stackAt, BitVec.toNat_ofNat]
  omega

/-- In plain memory the byte just pushed is the byte that the stack answers. -/
theorem answer_push8 {s : State} (hd : isDevice s (stackAddr s.sp) = false) (v : Byte) :
    answer (push8 v s) (stackAddr s.sp) = v := by
  rw [answer_plain (by simpa using hd), peek_push8, if_pos ⟨rfl, hd⟩]

/-- Settles O32: the byte pulled is the status pushed, and unpacking it gives the flags back with `B` set. -/
theorem pushedStatusPullsBack : Obligations.PushedStatusPullsBack := by
  intro s hd
  rw [← stackAddr_eq_stackAt] at hd
  refine ⟨pushP s, pullP (pushP s), rfl, rfl, ?_, ?_⟩
  · simp [pullP_eq, pushP, answer_push8 hd]
  · simp [pullP_eq, pushP]

/-! Which instruction writes which flag and register (10_state.md R20, R24, R26). -/

open Stmt in
/-- Settles O57: what is left of the statement at an instruction are the flags it does not write, and its operation keeps
those. -/
theorem flagsAreWrittenOnlyByTheListed : Obligations.FlagsAreWrittenOnlyByTheListed := by
  intro i s t h
  cases i <;> simp only [writesN, writesV, writesB, writesD, writesI, writesZ, writesC, Bool.true_eq_false, false_imp_iff,
    true_imp_iff, true_and, and_true]
  case adc o | sbc o => cases h; simp [addLike, aluFlags, setNZ]
  case cmp o | cpx o | cpy o => cases h; simp [compareWith, compareFlags, setNZ]
  case and o | ora o | eor o => cases h; simp [logicInto, setNZ]
  case bit o => cases o <;> cases h <;> simp [testFlags, bitFlags, isMem]
  case trb m | tsb m => cases h; simp [testAndWrite, testFlags]
  case asl r | lsr r | rol r | ror r | inc r | dec r =>
    cases h
    cases r <;> simp [modifyTarget, aslOp, lsrOp, rolOp, rorOp, incOp, decOp, setNZ]
  case lda o | ldx o | ldy o => cases h; simp [setNZ]
  case sta m | stx m | sty m | stz m | jmp m => cases h; simp
  case bcc | bcs | beq | bne | bmi | bpl | bvc | bvs | bra => cases h; rw [branch_eq]; simp
  case brk => cases h; simp [interruptEntry_fields]
  case undef op => cases eq_of_exec_undef h; simp
  all_goals cases h; and_intros <;> rfl

open Stmt in
/-- Settles O58: what is left of the statement at an instruction are the registers it does not write, and its operation
keeps those. -/
theorem registersAreWrittenOnlyByTheListed : Obligations.RegistersAreWrittenOnlyByTheListed := by
  intro i s t h
  cases i <;> simp only [writesA, writesX, writesY, writesSP, writesPC, Bool.true_eq_false, false_imp_iff,
    true_imp_iff, true_and, and_true]
  case adc o | sbc o => cases h; simp [addLike]
  case cmp o | cpx o | cpy o => cases h; simp [compareWith]
  case and o | ora o | eor o => cases h; simp [logicInto]
  case bit o => cases o <;> cases h <;> simp
  case trb m | tsb m => cases h; simp [testAndWrite]
  case asl r | lsr r | rol r | ror r | inc r | dec r => cases h; cases r <;> simp [modifyTarget, isAcc]
  case lda o | ldx o | ldy o | sta o | stx o | sty o | stz o | jmp o => cases h; simp
  case bcc | bcs | beq | bne | bmi | bpl | bvc | bvs | bra => cases h; rw [branch_eq]; simp
  case brk => cases h; simp [interruptEntry_fields]
  case undef op => cases eq_of_exec_undef h; simp
  all_goals cases h; and_intros <;> rfl

/-! What changes the request latches (10_state.md R33, R34) and the power latches (R31, R32). -/

theorem step_irqPending {s t : State} (h : step s = .next t) : t.irqPending = s.irqPending := by
  obtain ⟨-, ⟨-, rfl⟩ | ⟨-, -, rfl⟩ | ⟨-, -, u, hu, rfl⟩⟩ := step_cases h
  · rfl
  · simp
  · simp [exec_irqPending hu]

theorem transition_irqPending {h : HostInput} {s t : State} (e : transition h s = .next t) (hr : h ≠ .raiseIRQ)
    (hl : h ≠ .lowerIRQ) : t.irqPending = s.irqPending := by
  cases h with
  | step => exact step_irqPending e
  | reset faithful => cases e; exact hostReset_irqPending faithful s
  | raiseIRQ => exact absurd rfl hr
  | lowerIRQ => exact absurd rfl hl
  | raiseNMI | setOverflow => cases e; rfl

/-- A step either changes nothing or ends with a boundary that finds the NMI request as the step did. -/
theorem step_eq_or_boundary {s t : State} (h : step s = .next t) :
    t = s ∨ ∃ u : State, u.nmiPending = s.nmiPending ∧ t = boundary u := by
  obtain ⟨-, ⟨-, rfl⟩ | ⟨-, -, rfl⟩ | ⟨-, -, u, hu, rfl⟩⟩ := step_cases h
  · exact .inl rfl
  · exact .inr ⟨s, rfl, rfl⟩
  · exact .inr ⟨u, by simp [exec_nmiPending hu], rfl⟩

theorem transition_nmiPending {h : HostInput} {s t : State} (e : transition h s = .next t) (hstep : h ≠ .step)
    (hraise : h ≠ .raiseNMI) : t.nmiPending = s.nmiPending := by
  cases h with
  | step => exact absurd rfl hstep
  | reset faithful => cases e; exact hostReset_nmiPending faithful s
  | raiseNMI => exact absurd rfl hraise
  | raiseIRQ | lowerIRQ | setOverflow => cases e; rfl

/-- Only `raiseNMI` sets the NMI request: a boundary leaves none. -/
theorem eq_raiseNMI_of_sets {h : HostInput} {s t : State} (e : transition h s = .next t) (hs : s.nmiPending = false)
    (ht : t.nmiPending = true) : h = .raiseNMI := by
  by_contra hraise
  by_cases hstep : h = .step
  · subst hstep
    obtain rfl | ⟨u, -, rfl⟩ := step_eq_or_boundary e
    · exact absurd (hs.symm.trans ht) Bool.false_ne_true
    · simp at ht
  · rw [transition_nmiPending e hstep hraise, hs] at ht
    cases ht

/-- Only a step that services the NMI clears its request. -/
theorem serviced_of_clears {h : HostInput} {s t : State} (e : transition h s = .next t) (hs : s.nmiPending = true)
    (ht : t.nmiPending = false) :
    h = .step ∧ ∃ u : State, u.nmiPending = true ∧ t = interruptEntry nmiVector { u with nmiPending := false } := by
  cases h with
  | step =>
    obtain rfl | ⟨u, hu, rfl⟩ := step_eq_or_boundary e
    · exact absurd (ht.symm.trans hs) Bool.false_ne_true
    · exact ⟨rfl, u, hu.trans hs, boundary_of_nmiPending (hu.trans hs)⟩
  | raiseNMI => cases e; cases ht
  | reset | raiseIRQ | lowerIRQ | setOverflow =>
    rw [transition_nmiPending e (by simp) (by simp), hs] at ht
    cases ht

theorem raiseNMI_of_nmiPending {s : State} (h : s.nmiPending = true) : raiseNMI s = s := by
  apply State.ext <;> simp [raiseNMI, h]

/-- Settles O59, from what each input does to either request: of the six only `raiseIRQ` and `lowerIRQ` touch the IRQ level,
and the NMI request is set by `raiseNMI` and cleared at a boundary. -/
theorem requestLatchesChangeAsListed : Obligations.RequestLatchesChangeAsListed :=
  ⟨fun _ => ⟨rfl, rfl, rfl, raiseNMI_of_nmiPending⟩,
    fun _ _ _ e => ⟨transition_irqPending e, eq_raiseNMI_of_sets e, serviced_of_clears e⟩⟩

theorem eq_of_step_halted {s t : State} (h : step s = .next t) (hh : s.halted = true) : t = s := by
  rw [step_of_halted (step_wasReset h).1 hh] at h
  cases h
  rfl

theorem eq_boundary_of_step_suspended {s t : State} (h : step s = .next t) (hh : s.halted = false)
    (hs : s.suspended = true) : t = boundary s := by
  simp only [step, (step_wasReset h).1, hh, hs] at h
  cases h
  rfl

/-- Only a WAI run from Running suspends: its boundary entered no interrupt. -/
theorem step_suspends {s t : State} (h : step s = .next t) (hs : s.suspended = false) (ht : t.suspended = true) :
    s.halted = false ∧ (fetchInstr s).1 = .wai := by
  obtain ⟨-, ⟨-, rfl⟩ | ⟨-, hs', -⟩ | ⟨hh, -, u, hu, rfl⟩⟩ := step_cases h
  · exact absurd (hs.symm.trans ht) Bool.false_ne_true
  · exact absurd (hs.symm.trans hs') Bool.false_ne_true
  · exact ⟨hh, eq_wai_of_suspended hu (by simpa using hs) (suspended_of_boundary ht)⟩

/-- Only an STP run from Running halts. -/
theorem step_halts {s t : State} (h : step s = .next t) (hs : s.halted = false) (ht : t.halted = true) :
    s.suspended = false ∧ (fetchInstr s).1 = .stp := by
  obtain ⟨-, ⟨-, rfl⟩ | ⟨-, -, rfl⟩ | ⟨-, hsus, u, hu, rfl⟩⟩ := step_cases h
  · exact absurd (hs.symm.trans ht) Bool.false_ne_true
  · rw [boundary_halted, hs] at ht
    cases ht
  · exact ⟨hsus, eq_stp_of_halted hu (by simpa using hs) (by simpa using ht)⟩

/-- A step ends suspension only by an interrupt entry. -/
theorem step_resumes {s t : State} (h : step s = .next t) (hs : s.suspended = true) (ht : t.suspended = false) :
    (s.nmiPending = true ∧ t = interruptEntry nmiVector { s with nmiPending := false }) ∨
    (s.nmiPending = false ∧ s.irqPending = true ∧ s.p.i = false ∧ t = interruptEntry irqVector s) := by
  have hh : s.halted = false := by
    by_contra hne
    rw [eq_of_step_halted h (by simpa using hne), hs] at ht
    cases ht
  obtain rfl := eq_boundary_of_step_suspended h hh hs
  exact boundary_resumes hs ht

/-- The signals of the host leave the power latches alone. -/
theorem transition_powerLatches {h : HostInput} {s t : State} (e : transition h s = .next t) (hstep : h ≠ .step)
    (hreset : ∀ faithful, h ≠ .reset faithful) : t.suspended = s.suspended ∧ t.halted = s.halted := by
  cases h with
  | step => exact absurd rfl hstep
  | reset faithful => exact absurd rfl (hreset faithful)
  | raiseIRQ | lowerIRQ | raiseNMI | setOverflow => cases e; exact ⟨rfl, rfl⟩

/-- Settles O60, input by input: a step by what it can do, a reset by the latches it clears, and a signal changes neither. -/
theorem powerStatesChangeAsListed : Obligations.PowerStatesChangeAsListed := by
  refine ⟨fun _ => ⟨rfl, rfl⟩, interruptEntry_suspended,
    fun faithful s => ⟨hostReset_suspended faithful s, hostReset_halted faithful s⟩, fun h s t e => ?_⟩
  cases h with
  | step =>
    refine ⟨fun hs ht => ⟨rfl, step_suspends e hs ht⟩, fun hs ht => ⟨rfl, step_halts e hs ht⟩, fun hs ht => ?_,
      fun hs ht => ?_, fun _ => eq_of_step_halted e, fun _ => eq_boundary_of_step_suspended e⟩
    · rw [eq_of_step_halted e hs, hs] at ht
      cases ht
    · obtain hnmi | hirq := step_resumes e hs ht
      · exact .inr (.inl ⟨rfl, hnmi⟩)
      · exact .inr (.inr ⟨rfl, hirq⟩)
  | reset faithful =>
    cases e
    simp
  | raiseIRQ | lowerIRQ | raiseNMI | setOverflow =>
    obtain ⟨hsus, hhalt⟩ := transition_powerLatches e (by simp) (by simp)
    simp +contextual [hsus, hhalt]

/-! A Running step and a reset. -/

open Stmt in
/-- The instruction fetched is the one that the bytes at PC decode to, and of those the core reads the instruction's own. -/
theorem fetchInstr_of_decode {s : State} {i : Instr} {rest : List Byte} (h : decode (fetchSeq 3 s).1 = .ok (i, rest)) :
    fetchInstr s = (i, (fetchSeq (fetchedBytes i) s).2) := by
  have hbytes := entryOf_fetchesItsBytes (fetch8 s).1
  simp only [fetchSeq, decode] at h
  unfold fetchInstr
  dsimp only
  cases he : entryOf (fetch8 s).1 <;> rw [he] at h hbytes <;> cases h
  case op | sig => rw [show fetchedBytes i = 1 from hbytes]; rfl
  case undef => rfl
  case b8 f => rw [show fetchedBytes (f _) = 2 from hbytes _]; rfl
  case w16 f => rw [show fetchedBytes (f _) = 3 from hbytes _]; rfl

theorem fetch8_plain {s : State} (h : isDevice s s.pc = false) :
    fetch8 s = (peek s s.pc, { s with pc := s.pc + 1#16, bus := .read s.pc (peek s s.pc) :: s.bus }) := by
  simp [fetch8, busRead, answer_plain h]

theorem step_of_running {s : State} (hr : s.wasReset = true) (hh : s.halted = false) (hs : s.suspended = false) :
    step s = finishStep (exec (fetchInstr s).1 (fetchInstr s).2) := by
  simp [step, hr, hh, hs]

/-- Settles O5: the fetch reads the instruction its bytes decode to, and the step runs it and ends it. -/
theorem stepRunsDecodedInstruction : Obligations.StepRunsDecodedInstruction := by
  refine ⟨fun s i rest hr hh hs hdec => ?_, fun s hd => ?_⟩
  · rw [step_of_running hr hh hs, fetchInstr_of_decode hdec]
    cases exec i (Stmt.fetchSeq (Stmt.fetchedBytes i) s).2 <;> rfl
  · simp [Stmt.fetchSeq, fetch8_plain hd]

/-- Settles O49. The vector's two bytes are what the bus supplies at 0xFFFC and then at 0xFFFD; a reset changes nothing that
those answers depend on before it reads them. -/
theorem resetGivesTheListedValues : Obligations.ResetGivesTheListedValues := fun s =>
  ⟨answer s 0xFFFC, answer (busRead 0xFFFC s).2 0xFFFD, rfl, rfl, rfl⟩

/-- Settles O51: the state after reset sets no power latch and lists no byte. -/
theorem resetIsSound : Obligations.ResetIsSound :=
  ⟨⟨by decide, Memory.wf_nil⟩, rfl⟩

end Sys2Proof.Machine
end

section
/-! PROOFS. The family 20_memory.md: the transactions that operations, instructions and steps make, and the bytes of memory
they can change. -/

namespace Sys2Proof.Machine

open Sys2Proof.Stmt

/-- From `s` to `t` the bus made `r` reads and `w` writes, and a byte that none of the writes addresses reads as before
(20_memory.md R57, R62). -/
def Transacts (r w : Nat) (s t : State) : Prop :=
  ∃ new, t.bus = new ++ s.bus ∧ new.countP isRead = r ∧ new.countP isWrite = w ∧
    ∀ addr, (∀ v, BusEvent.write addr v ∉ new) → peek t addr = peek s addr

/-! How transactions compose. -/

theorem Transacts.of_eq {s t : State} (hbus : t.bus = s.bus) (hmem : t.mem = s.mem) : Transacts 0 0 s t :=
  ⟨[], hbus, rfl, rfl, fun addr _ => peek_congr hmem addr⟩

theorem Transacts.trans {r w r' w' : Nat} {s t u : State} (h : Transacts r w s t) (h' : Transacts r' w' t u) :
    Transacts (r + r') (w + w') s u := by
  obtain ⟨new, hbus, rfl, rfl, hpeek⟩ := h
  obtain ⟨new', hbus', rfl, rfl, hpeek'⟩ := h'
  refine ⟨new' ++ new, by rw [hbus', hbus, List.append_assoc], by rw [List.countP_append, Nat.add_comm],
    by rw [List.countP_append, Nat.add_comm], fun addr hno => ?_⟩
  rw [hpeek' addr fun v hv => hno v (List.mem_append_left _ hv), hpeek addr fun v hv => hno v (List.mem_append_right _ hv)]

/-- What is done to registers, flags and latches makes no transaction. -/
theorem Transacts.congr {r w : Nat} {s t u : State} (h : Transacts r w s t) (hbus : u.bus = t.bus) (hmem : u.mem = t.mem) :
    Transacts r w s u :=
  h.trans (.of_eq hbus hmem)

/-! The transactions of each shared operation. -/

theorem busRead_transacts (addr : Word) (s : State) : Transacts 1 0 s (busRead addr s).2 :=
  ⟨[.read addr (answer s addr)], rfl, rfl, rfl, fun _ _ => rfl⟩

theorem busWrite_transacts (addr : Word) (v : Byte) (s : State) : Transacts 0 1 s (busWrite addr v s) := by
  refine ⟨[.write addr v], rfl, rfl, rfl, fun b hno => ?_⟩
  have hb : b ≠ addr := by
    rintro rfl
    exact hno v (List.mem_singleton_self _)
  rw [peek_busWrite, if_neg fun h => hb h.1]

theorem fetch8_transacts (s : State) : Transacts 1 0 s (fetch8 s).2 := (busRead_transacts s.pc s).congr rfl rfl

theorem memRead16_transacts (addr : Word) (s : State) : Transacts 2 0 s (memRead16 addr s).2 :=
  (busRead_transacts addr s).trans (busRead_transacts _ _)

theorem zpRead16_transacts (ptr : Byte) (s : State) : Transacts 2 0 s (zpRead16 ptr s).2 :=
  (busRead_transacts (zext16 ptr) s).trans (busRead_transacts _ _)

theorem push8_transacts (v : Byte) (s : State) : Transacts 0 1 s (push8 v s) :=
  (busWrite_transacts (stackAddr s.sp) v s).congr rfl rfl

theorem pull8_transacts (s : State) : Transacts 1 0 s (pull8 s).2 :=
  (Transacts.of_eq rfl rfl).trans (busRead_transacts _ { s with sp := s.sp + 1#8 })

theorem push16_transacts (w : Word) (s : State) : Transacts 0 2 s (push16 w s) :=
  (push8_transacts (hiByte w) s).trans (push8_transacts _ _)

theorem pull16_transacts (s : State) : Transacts 2 0 s (pull16 s).2 := (pull8_transacts s).trans (pull8_transacts _)

theorem pullP_transacts (s : State) : Transacts 1 0 s (pullP s) := (pull8_transacts s).congr rfl rfl

theorem interruptSave_transacts (s : State) : Transacts 0 3 s (interruptSave s) :=
  ((push16_transacts s.pc s).trans (push8_transacts (packP s.p) _)).congr rfl rfl

/-- An interrupt entry writes three bytes and reads its vector (60_exceptions.md R304). -/
theorem interruptEntry_transacts (vec : Word) (s : State) : Transacts 2 3 s (interruptEntry vec s) :=
  ((interruptSave_transacts s).trans (memRead16_transacts vec _)).congr rfl rfl

theorem interruptReturn_transacts (s : State) : Transacts 3 0 s (interruptReturn s) :=
  ((pullP_transacts s).trans (pull16_transacts _)).congr rfl rfl

/-! The transactions of each operand form (40_addressing_modes.md R118, 43_shift_incdec.md R160). -/

theorem resolve_transacts (m : Addr) (s : State) : Transacts (pointerReads m) 0 s (resolve m s).2 := by
  cases m with
  | zp | zpx | zpy | abs | abx | aby => exact .of_eq rfl rfl
  | ind | iax => exact memRead16_transacts _ s
  | zpi | zix | ziy => exact zpRead16_transacts _ s

theorem readAt_transacts (m : Addr) (s : State) :
    Transacts (pointerReads m + 1) 0 s (busRead (resolve m s).1 (resolve m s).2).2 :=
  (resolve_transacts m s).trans (busRead_transacts _ _)

theorem readOperand_transacts (o : Operand) (s : State) : Transacts (operandReads o) 0 s (readOperand o s).2 := by
  cases o with
  | imm b => exact .of_eq rfl rfl
  | mem m => exact readAt_transacts m s

theorem storeAt_transacts (m : Addr) (v : Byte) (s : State) : Transacts (pointerReads m) 1 s (storeAt m v s) :=
  (resolve_transacts m s).trans (busWrite_transacts _ v _)

theorem testAndWrite_transacts (f : Byte → Byte → Byte) (m : Addr) (s : State) :
    Transacts (pointerReads m + 1) 1 s (testAndWrite f m s) :=
  ((readAt_transacts m s).trans (busWrite_transacts _ _ _)).congr rfl rfl

theorem modifyTarget_transacts (f : Byte → Flags → Byte × Flags) (r : Target) (s : State) :
    Transacts (targetReads r) (targetWrites r) s (modifyTarget f r s) := by
  cases r with
  | acc => exact .of_eq rfl rfl
  | mem m => exact ((readAt_transacts m s).trans (busWrite_transacts _ _ _)).congr rfl rfl

theorem branch_transacts (cond : Bool) (rel : Byte) (s : State) : Transacts 0 0 s (branch cond rel s) := by
  rw [branch_eq]
  exact .of_eq rfl rfl

/-! The transactions of an instruction. -/

/-- An instruction makes the reads and writes of its rule: those of the shared operation it is made of. -/
theorem exec_transacts {i : Instr} {s t : State} (h : exec i s = .next t) : Transacts (readsOf i) (writesOf i) s t := by
  cases i
  case adc o | sbc o | cmp o | cpx o | cpy o | and o | ora o | eor o | lda o | ldx o | ldy o =>
    cases h
    exact (readOperand_transacts o s).congr rfl rfl
  case bit o =>
    cases o <;> cases h
    case imm b => exact .of_eq rfl rfl
    case mem m => exact (readAt_transacts m s).congr rfl rfl
  case trb m | tsb m => cases h; exact testAndWrite_transacts _ m s
  case asl r | lsr r | rol r | ror r | inc r | dec r => cases h; exact modifyTarget_transacts _ r s
  case sta m | stx m | sty m | stz m => cases h; exact storeAt_transacts m _ s
  case pha | php | phx | phy => cases h; exact push8_transacts _ s
  case pla | plx | ply => cases h; exact (pull8_transacts s).congr rfl rfl
  case plp => cases h; exact pullP_transacts s
  case bcc | bcs | beq | bne | bmi | bpl | bvc | bvs | bra => cases h; exact branch_transacts _ _ s
  case jmp m => cases h; exact (resolve_transacts m s).congr rfl rfl
  case jsr w => cases h; exact (push16_transacts (s.pc - 1#16) s).congr rfl rfl
  case rts => cases h; exact (pull16_transacts s).congr rfl rfl
  case rti => cases h; exact interruptReturn_transacts s
  case brk =>
    cases h
    have hprepared : Transacts 0 0 s { s with pc := s.pc + 1#16, p := { s.p with b := true } } := .of_eq rfl rfl
    exact hprepared.trans (interruptEntry_transacts irqVector _)
  case undef op => cases eq_of_exec_undef h; exact .of_eq rfl rfl
  all_goals cases h; exact .of_eq rfl rfl

/-- Settles O55: the transactions of an instruction are those of the shared operation it is made of. -/
theorem instructionsMakeTheListedTransactions : Obligations.InstructionsMakeTheListedTransactions := by
  intro i s t h
  obtain ⟨new, hbus, hreads, hwrites, -⟩ := exec_transacts h
  exact ⟨new, hbus, hreads, hwrites⟩

/-- Settles O56: an instruction that lists no write leaves memory alone, hence every byte of it. -/
theorem onlyStoringInstructionsChangeMemory : Obligations.OnlyStoringInstructionsChangeMemory := fun _ _ _ h hw =>
  ⟨exec_mem h hw, peek_congr (exec_mem h hw)⟩

/-- Settles O26: a fetch of plain memory answers the byte it holds, which is the byte just stored. -/
theorem storeIsSeenByTheNextFetch : Obligations.StoreIsSeenByTheNextFetch := by
  intro m s hd
  refine ⟨storeAt m s.a s, rfl, ?_⟩
  have hpeek : peek (storeAt m s.a s) (resolve m s).1 = s.a := by
    rw [storeAt, peek_busWrite, if_pos ⟨rfl, by simpa using hd⟩]
  have hplain : isDevice (storeAt m s.a s) (resolve m s).1 = false := (isDevice_congr (storeAt_devices m s.a s) _).trans hd
  calc (fetch8 { storeAt m s.a s with pc := (resolve m s).1 }).1
    _ = answer (storeAt m s.a s) (resolve m s).1 := answer_congr rfl rfl rfl _
    _ = s.a := (answer_plain hplain).trans hpeek

/-! The transactions of a step. -/

/-- A fetch reads and does not write. -/
theorem fetchInstr_transacts (s : State) : ∃ r, Transacts r 0 s (fetchInstr s).2 := by
  have one := fetch8_transacts s
  have two := one.trans (fetch8_transacts (fetch8 s).2)
  have three := two.trans (fetch8_transacts (fetch8 (fetch8 s).2).2)
  unfold fetchInstr
  dsimp only
  split
  case h_1 | h_2 | h_3 => exact ⟨1, one⟩
  case h_4 => exact ⟨2, two⟩
  case h_5 => exact ⟨3, three⟩

/-- A boundary makes the transactions of one interrupt entry or none. -/
theorem boundary_transacts (s : State) : ∃ r w, Transacts r w s (boundary s) := by
  obtain ⟨-, h⟩ | ⟨-, -, -, h⟩ | ⟨-, -, h⟩ := boundary_cases s <;> rw [h]
  · have hcleared : Transacts 0 0 s { s with nmiPending := false } := .of_eq rfl rfl
    exact ⟨2, 3, hcleared.trans (interruptEntry_transacts nmiVector _)⟩
  · exact ⟨2, 3, interruptEntry_transacts irqVector s⟩
  · exact ⟨0, 0, .of_eq rfl rfl⟩

theorem step_transacts {s t : State} (h : step s = .next t) : ∃ r w, Transacts r w s t := by
  obtain ⟨-, ⟨-, rfl⟩ | ⟨-, -, rfl⟩ | ⟨-, -, u, hu, rfl⟩⟩ := step_cases h
  · exact ⟨0, 0, .of_eq rfl rfl⟩
  · exact boundary_transacts s
  · obtain ⟨_, hfetch⟩ := fetchInstr_transacts s
    obtain ⟨_, _, hboundary⟩ := boundary_transacts u
    exact ⟨_, _, (hfetch.trans (exec_transacts hu)).trans hboundary⟩

@[simp] theorem fetchInstr_devices (s : State) : (fetchInstr s).2.devices = s.devices := by rw [fetchInstr_snd]

@[simp] theorem boundary_devices (s : State) : (boundary s).devices = s.devices := by
  obtain ⟨-, h⟩ | ⟨-, -, -, h⟩ | ⟨-, -, h⟩ := boundary_cases s <;> rw [h] <;> simp [interruptEntry_fields]

theorem exec_devices {i : Instr} {s t : State} (h : exec i s = .next t) : t.devices = s.devices := by
  rw [(exec_keeps h).1]

/-- No step changes the platform's device windows (log 2). -/
theorem step_devices {s t : State} (h : step s = .next t) : t.devices = s.devices := by
  obtain ⟨-, ⟨-, rfl⟩ | ⟨-, -, rfl⟩ | ⟨-, -, u, hu, rfl⟩⟩ := step_cases h
  · rfl
  · simp
  · simp [exec_devices hu]

/-- Settles O54: a step is a fetch, an instruction and a boundary, and each only adds transactions and leaves the bytes that
no write of them addresses. -/
theorem memoryChangesOnlyByBusWrites : Obligations.MemoryChangesOnlyByBusWrites := by
  intro s t h
  obtain ⟨_, _, new, hbus, -, -, hpeek⟩ := step_transacts h
  exact ⟨step_devices h, transition_params (h := .step) h, new, hbus, hpeek⟩

end Sys2Proof.Machine
end

section
/-! PROOFS. The family 30_encoding.md: the encoder, written from the rules' opcode lists, and the decoder, written as the
opcode map, agree with each other and with the well-formed instructions. -/

namespace Sys2Proof

/-! The encoder: what it encodes, and in how many bytes. -/

/-- An opcode list has an encoding for the modes it lists. -/
theorem encodeForm_isSome (opcodes : List (Mode × Byte)) (mode : Mode) (operands : List Byte) :
    (encodeForm opcodes mode operands).isSome = (opcodes.map Prod.fst).contains mode := by
  rw [encodeForm, Option.isSome_map, List.contains_map, Bool.eq_iff_iff, List.lookup_isSome_iff, List.any_eq_true]

/-- An encoding is an opcode that the list pairs with the mode, then the operand bytes. -/
theorem eq_cons_of_encodeForm {opcodes : List (Mode × Byte)} {mode : Mode} {operands bytes : List Byte}
    (h : encodeForm opcodes mode operands = some bytes) : ∃ op, (mode, op) ∈ opcodes ∧ bytes = op :: operands := by
  obtain ⟨op, hlookup, hbytes⟩ := Option.map_eq_some_iff.mp h
  obtain ⟨before, after, hopcodes, -⟩ := List.lookup_eq_some_iff.mp hlookup
  exact ⟨op, by simp [hopcodes], hbytes.symm⟩

theorem length_of_encodeForm {opcodes : List (Mode × Byte)} {mode : Mode} {operands bytes : List Byte}
    (h : encodeForm opcodes mode operands = some bytes) : bytes.length = 1 + operands.length := by
  obtain ⟨op, -, rfl⟩ := eq_cons_of_encodeForm h
  exact Nat.add_comm _ _

theorem encode_undef (op : Byte) : encode (.undef op) = if undefinedOpcodes.contains op then some [op] else none := rfl

theorem eq_of_encode_undef {op : Byte} {bytes : List Byte} (h : encode (.undef op) = some bytes) :
    op ∈ undefinedOpcodes ∧ bytes = [op] := by
  rw [encode_undef, Option.ite_none_right_eq_some, Option.some.injEq, List.contains_iff_mem] at h
  exact ⟨h.1, h.2.symm⟩

/-- The forms with an encoding are the well-formed ones: an opcode list lists the modes that `Instr.wf` allows. -/
theorem encode_isSome (i : Instr) : (encode i).isSome = i.wf := by
  cases i
  case adc o | sbc o | cmp o | cpx o | cpy o | and o | ora o | eor o | bit o | lda o | ldx o | ldy o =>
    exact encodeForm_isSome _ o.mode o.bytes
  case trb m | tsb m | sta m | stx m | sty m | stz m | jmp m => exact encodeForm_isSome _ m.mode m.bytes
  case asl t | lsr t | rol t | ror t | inc t | dec t => exact encodeForm_isSome _ t.mode t.bytes
  case undef op => rw [encode_undef, Instr.wf]; cases undefinedOpcodes.contains op <;> rfl
  all_goals rfl

theorem length_of_encode {i : Instr} {bytes : List Byte} (h : encode i = some bytes) : bytes.length = i.length := by
  cases i
  case adc | sbc | cmp | cpx | cpy | and | ora | eor | bit | lda | ldx | ldy
    | trb | tsb | sta | stx | sty | stz | jmp
    | asl | lsr | rol | ror | inc | dec => exact length_of_encodeForm h
  case undef => rw [(eq_of_encode_undef h).2]; rfl
  all_goals cases h; rfl

/-! Decoding what was encoded. -/

theorem decode_of_mem_undefinedOpcodes {op : Byte} (h : op ∈ undefinedOpcodes) (rest : List Byte) :
    decode (op :: rest) = .ok (.undef op, rest) := by
  have hundef := (entryOf_isUndef_iff op).mpr h
  rw [decode]
  cases he : entryOf op <;> rw [he] at hundef
  case undef => rfl
  all_goals cases hundef

/-- The row that the instruction `f`, with an address of a mode, should have in the opcode map (30_encoding.md R71 to R73). -/
def addrRow (f : Addr → Instr) : Mode → Entry
  | .zp => .b8 (f ∘ .zp)
  | .zpx => .b8 (f ∘ .zpx)
  | .zpy => .b8 (f ∘ .zpy)
  | .abs => .w16 (f ∘ .abs)
  | .abx => .w16 (f ∘ .abx)
  | .aby => .w16 (f ∘ .aby)
  | .ind => .w16 (f ∘ .ind)
  | .iax => .w16 (f ∘ .iax)
  | .zpi => .b8 (f ∘ .zpi)
  | .zix => .b8 (f ∘ .zix)
  | .ziy => .b8 (f ∘ .ziy)
  | .imp | .acc | .imm | .rel => .undef

/-- The same of an operand: an immediate byte, or an address. -/
def operandRow (f : Operand → Instr) : Mode → Entry
  | .imm => .b8 (f ∘ .imm)
  | mode => addrRow (f ∘ .mem) mode

/-- The same of a target: the accumulator, or an address. -/
def targetRow (f : Target → Instr) : Mode → Entry
  | .acc => .op (f .acc)
  | mode => addrRow (f ∘ .mem) mode

theorem buildInstr_addrRow (f : Addr → Instr) (m : Addr) (op : Byte) (rest : List Byte) :
    buildInstr op (addrRow f m.mode) (m.bytes ++ rest) = .ok (f m, rest) := by
  cases m <;> simp [Addr.mode, Addr.bytes, addrRow, buildInstr]

theorem buildInstr_operandRow (f : Operand → Instr) (o : Operand) (op : Byte) (rest : List Byte) :
    buildInstr op (operandRow f o.mode) (o.bytes ++ rest) = .ok (f o, rest) := by
  cases o with
  | imm b => rfl
  | mem m =>
    have hrow : operandRow f m.mode = addrRow (f ∘ .mem) m.mode := by cases m <;> rfl
    exact hrow ▸ buildInstr_addrRow (f ∘ .mem) m op rest

theorem buildInstr_targetRow (f : Target → Instr) (t : Target) (op : Byte) (rest : List Byte) :
    buildInstr op (targetRow f t.mode) (t.bytes ++ rest) = .ok (f t, rest) := by
  cases t with
  | acc => rfl
  | mem m =>
    have hrow : targetRow f m.mode = addrRow (f ∘ .mem) m.mode := by cases m <;> rfl
    exact hrow ▸ buildInstr_addrRow (f ∘ .mem) m op rest

/-- What an opcode list encodes is decoded to `i`, where the opcode map has at each listed opcode the row of the listed mode,
and the row of this mode makes `i` of the operand bytes. -/
theorem decode_of_encodeForm {opcodes : List (Mode × Byte)} {mode : Mode} {operands bytes rest : List Byte}
    {row : Mode → Entry} {i : Instr} (h : encodeForm opcodes mode operands = some bytes)
    (hbuild : ∀ op, buildInstr op (row mode) (operands ++ rest) = .ok (i, rest))
    (hrows : opcodes.map (fun p => entryOf p.2) = opcodes.map (fun p => row p.1)) :
    decode (bytes ++ rest) = .ok (i, rest) := by
  obtain ⟨op, hmem, rfl⟩ := eq_cons_of_encodeForm h
  have hrow : entryOf op = row mode := List.map_inj_left.mp hrows _ hmem
  rw [List.cons_append, decode, hrow, hbuild]

theorem decode_of_encode {i : Instr} {bytes : List Byte} (h : encode i = some bytes) (rest : List Byte) :
    decode (bytes ++ rest) = .ok (i, rest) := by
  cases i
  case adc o | sbc o | cmp o | cpx o | cpy o | and o | ora o | eor o | bit o | lda o | ldx o | ldy o =>
    exact decode_of_encodeForm h (buildInstr_operandRow _ o · rest) (by rfl)
  case trb m | tsb m | sta m | stx m | sty m | stz m | jmp m =>
    exact decode_of_encodeForm h (buildInstr_addrRow _ m · rest) (by rfl)
  case asl t | lsr t | rol t | ror t | inc t | dec t =>
    exact decode_of_encodeForm h (buildInstr_targetRow _ t · rest) (by rfl)
  case undef op =>
    obtain ⟨hmem, rfl⟩ := eq_of_encode_undef h
    exact decode_of_mem_undefinedOpcodes hmem rest
  case jsr w =>
    cases h
    exact congrArg (fun v => Except.ok (Instr.jsr v, rest)) (Machine.mkWord_hi_lo w)
  all_goals cases h; rfl

/-- Settles O2: a well-formed instruction has an encoding, and the opcode map has its row at the opcode encoded. -/
theorem decodeOfEncode : Obligations.DecodeOfEncode := by
  intro i rest hwf
  obtain ⟨bytes, h⟩ := Option.isSome_iff_exists.mp ((encode_isSome i).trans hwf)
  exact ⟨bytes, h, length_of_encode h, decode_of_encode h rest⟩

/-! Encoding what was decoded. -/

/-- The instructions that a row makes are encoded as its opcode and the operand bytes, low byte first; BRK's is the one row
with a signature byte. -/
def Entry.EncodesTo (op : Byte) : Entry → Prop
  | .op i => encode i = some [op]
  | .sig i => i = .brk
  | .b8 f => ∀ b, encode (f b) = some [op, b]
  | .w16 f => ∀ w, encode (f w) = some [op, Machine.loByte w, Machine.hiByte w]
  | .undef => True

theorem opcodeTable_encodesTo : ∀ e ∈ opcodeTable.zipIdx, e.1.EncodesTo (BitVec.ofNat 8 e.2) := by
  simp only [opcodeTable, List.zipIdx_append, List.forall_mem_append, opcodeRow0, opcodeRow1, opcodeRow2, opcodeRow3,
    opcodeRow4, opcodeRow5, opcodeRow6, opcodeRow7, opcodeRow8, opcodeRow9, opcodeRowA, opcodeRowB, opcodeRowC,
    opcodeRowD, opcodeRowE, opcodeRowF, List.zipIdx_cons, List.zipIdx_nil, List.length_append, List.length_cons,
    List.length_nil, Nat.reduceAdd, List.forall_mem_cons, Entry.EncodesTo, Function.comp_apply, List.not_mem_nil,
    false_imp_iff, implies_true, and_true, true_and]
  and_intros <;> intros <;> rfl

theorem entryOf_encodesTo (op : Byte) : (entryOf op).EncodesTo op := by
  have h := List.forall_mem_zipIdx.mp opcodeTable_encodesTo op.toNat (toNat_lt_opcodeTable_length op)
  rw [Nat.zero_add, BitVec.ofNat_toNat, BitVec.setWidth_eq] at h
  rwa [entryOf_eq_getElem]

/-- What decodes took the operand bytes that its row counts, and is encoded as they stand unless it is BRK. -/
theorem decode_cons_cases {op : Byte} {tail rest : List Byte} {i : Instr} (hdec : decode (op :: tail) = .ok (i, rest)) :
    ∃ operands, tail = operands ++ rest ∧ operands.length = (entryOf op).operandBytes ∧
      (encode i = some (op :: operands) ∨ i = .brk ∧ operands.length = 1) := by
  have hrow := entryOf_encodesTo op
  have hundef := entryOf_isUndef_iff op
  rw [decode] at hdec
  cases he : entryOf op <;> rw [he] at hdec hrow hundef
  case op =>
    cases hdec
    exact ⟨[], rfl, rfl, .inl hrow⟩
  case undef =>
    cases hdec
    exact ⟨[], rfl, rfl, .inl (by rw [encode_undef, if_pos (List.contains_iff_mem.mpr (hundef.mp rfl))])⟩
  case sig =>
    obtain _ | ⟨b, tail⟩ := tail <;> cases hdec
    exact ⟨[b], rfl, rfl, .inr ⟨hrow, rfl⟩⟩
  case b8 =>
    obtain _ | ⟨b, tail⟩ := tail <;> cases hdec
    exact ⟨[b], rfl, rfl, .inl (hrow b)⟩
  case w16 =>
    obtain _ | ⟨lo, _ | ⟨hi, tail⟩⟩ := tail <;> cases hdec
    exact ⟨[lo, hi], rfl, rfl, .inl (by simpa using hrow (Machine.mkWord hi lo))⟩

/-- Settles O3: an instruction that has an encoding is well-formed and has its length; BRK, with any signature, is seen directly. -/
theorem encodeOfDecode : Obligations.EncodeOfDecode := by
  intro bytes i rest hdec
  obtain _ | ⟨op, tail⟩ := bytes
  · cases hdec
  obtain ⟨operands, rfl, hcount, hencode⟩ := decode_cons_cases hdec
  have hlen : (op :: operands).length = opcodeLength op := by
    rw [List.length_cons, hcount, opcodeLength, Nat.add_comm]
  obtain henc | ⟨rfl, hsig⟩ := hencode
  · have hwf : i.wf = true := by rw [← encode_isSome, henc, Option.isSome_some]
    exact ⟨hwf, op, operands, rfl, hlen, (length_of_encode henc).symm.trans hlen, fun _ => henc⟩
  · have hbrk : Instr.brk.length = (op :: operands).length := by rw [List.length_cons, hsig, Instr.length]
    exact ⟨rfl, op, operands, rfl, hlen, hbrk.trans hlen, fun hne => absurd rfl hne⟩

/-! The undefined opcodes, and the words written out. -/

/-- The listed bytes are the places of the rows without mnemonic, so none is listed twice. -/
theorem undefinedOpcodes_nodup : undefinedOpcodes.Nodup :=
  .of_map BitVec.toNat (undefinedOpcodes_map_toNat ▸ List.nodup_findIdxs)

/-- Settles O4: a listed byte has an undefined row, and what decodes to an undefined opcode is well-formed, hence listed. -/
theorem undefinedOpcodesAreTheListed : Obligations.UndefinedOpcodesAreTheListed :=
  ⟨rfl, undefinedOpcodes_nodup, fun _ rest =>
    ⟨(decode_of_mem_undefinedOpcodes · rest), fun h => List.contains_iff_mem.mp (encodeOfDecode _ _ _ h).1⟩⟩

/-- Settles O1: each word's row stands in the opcode map, and the word's bytes are the operand, low byte first. -/
theorem concreteWordsDecode : Obligations.ConcreteWordsDecode :=
  ⟨rfl, rfl, rfl, rfl, rfl, rfl, rfl, rfl, rfl⟩

end Sys2Proof
end

section
/-! PROOFS. The family 40_addressing_modes.md: the effective address of each mode, its pointer reads, and what a fetch and a
resolver leave unchanged. -/

namespace Sys2Proof.Machine

open Sys2Proof.Stmt

/-! Address arithmetic. -/

theorem zext16_eq_ofNat (v : Byte) : zext16 v = BitVec.ofNat 16 v.toNat :=
  (BitVec.ofNat_toNat 16 v).symm

/-- An index is added to a base address modulo 65536. -/
theorem add_zext16_eq_ofNat (w : Word) (v : Byte) : w + zext16 v = BitVec.ofNat 16 (w.toNat + v.toNat) := by
  rw [BitVec.add_def, zext16_toNat]

theorem add_zext16_toNat (w : Word) (v : Byte) : (w + zext16 v).toNat = (w.toNat + v.toNat) % 65536 := by
  rw [add_zext16_eq_ofNat, BitVec.toNat_ofNat]

/-- An index is added to a zero-page base modulo 256. -/
theorem zext16_add_toNat (b v : Byte) : (zext16 (b + v)).toNat = (b.toNat + v.toNat) % 256 := by
  rw [zext16_toNat, BitVec.toNat_add]

/-- Both values of ZP_PTR_WRAP (40_addressing_modes.md R101). -/
theorem zpPtrHigh_eq_ofNat (wrap : Bool) (ptr : Byte) :
    zpPtrHigh wrap ptr = BitVec.ofNat 16 (if wrap then (ptr.toNat + 1) % 256 else ptr.toNat + 1) := by
  cases wrap with
  | true => exact (zext16_eq_ofNat _).trans (congrArg _ (BitVec.toNat_add ptr 1#8))
  | false => exact (BitVec.add_def _ 1#16).trans (by rw [zext16_toNat]; rfl)

/-! Addresses read from a pointer. -/

/-- The word `t.1` is found by two reads from `s`, its low byte at `lowAt` and then its high byte at `highAt`, and adding an
offset modulo 65536; `t.2` is the state after them. -/
def ReadsPointer (s : State) (lowAt highAt : Word) (offset : Nat) (t : Word × State) : Prop :=
  ∃ l h : Byte, (readSeq [lowAt, highAt] s).1 = [l, h] ∧ t.2 = (readSeq [lowAt, highAt] s).2 ∧
    t.1.toNat = (h.toNat * 256 + l.toNat + offset) % 65536

theorem mkWord_toNat_mod (h l : Byte) : (mkWord h l).toNat = (h.toNat * 256 + l.toNat + 0) % 65536 := by
  rw [mkWord, BitVec.toNat_ofNat, Nat.add_zero]

theorem memRead16_readsPointer (addr : Word) (s : State) : ReadsPointer s addr (addr + 1#16) 0 (memRead16 addr s) :=
  ⟨_, _, rfl, rfl, mkWord_toNat_mod _ _⟩

theorem zpRead16_readsPointer (ptr : Byte) (s : State) :
    ReadsPointer s (BitVec.ofNat 16 ptr.toNat)
      (BitVec.ofNat 16 (if s.params.zpPtrWrap then (ptr.toNat + 1) % 256 else ptr.toNat + 1)) 0 (zpRead16 ptr s) := by
  rw [← zext16_eq_ofNat, ← zpPtrHigh_eq_ofNat]
  exact ⟨_, _, rfl, rfl, mkWord_toNat_mod _ _⟩

/-- An index added to the word of a pointer, as ZIY does (40_addressing_modes.md R115). -/
theorem ReadsPointer.add_zext16 {s : State} {lowAt highAt : Word} {t : Word × State}
    (ht : ReadsPointer s lowAt highAt 0 t) (v : Byte) :
    ReadsPointer s lowAt highAt v.toNat (t.1 + zext16 v, t.2) := by
  obtain ⟨l, h, hbytes, hstate, hword⟩ := ht
  refine ⟨l, h, hbytes, hstate, ?_⟩
  rw [add_zext16_toNat, hword, Nat.mod_add_mod, Nat.add_zero]

/-- Settles O9: IND and IAX read a word of memory, the other three a word of the zero page, and ZIY adds `Y` to it. -/
theorem indirectModesReadAPointer : Obligations.IndirectModesReadAPointer := by
  intro s b w
  have hiax := memRead16_readsPointer (w + zext16 s.x) s
  rw [add_zext16_eq_ofNat] at hiax
  exact ⟨memRead16_readsPointer w s, hiax, zpRead16_readsPointer b s, zpRead16_readsPointer (b + s.x) s,
    (zpRead16_readsPointer b s).add_zext16 s.y⟩

/-! What a fetch and a resolver leave unchanged. -/

/-- Where no write was made, all that was added to the bus is the reads counted. -/
theorem Transacts.only_reads {r : Nat} {s t : State} (h : Transacts r 0 s t) :
    ∃ reads, t.bus = reads ++ s.bus ∧ reads.length = r ∧ reads.all isRead = true := by
  obtain ⟨reads, hbus, rfl, hwrites, -⟩ := h
  have hall : ∀ e ∈ reads, isRead e = true := fun e he => by
    cases e with
    | read addr v => rfl
    | write addr v => exact absurd rfl (List.countP_eq_zero.mp hwrites _ he)
  exact ⟨reads, hbus, (List.countP_eq_length.mpr hall).symm, List.all_eq_true.mpr hall⟩

theorem fetchSeq_transacts (n : Nat) (s : State) : Transacts n 0 s (fetchSeq n s).2 := by
  induction n generalizing s with
  | zero => exact .of_eq rfl rfl
  | succ n ih =>
    have h := (fetch8_transacts s).trans (ih (fetch8 s).2)
    rwa [Nat.add_comm 1 n] at h

/-- `n` fetches move PC on by `n` and change nothing else but the record of transactions. -/
theorem fetchSeq_snd (n : Nat) (s : State) :
    (fetchSeq n s).2 = { s with pc := s.pc + BitVec.ofNat 16 n, bus := (fetchSeq n s).2.bus } := by
  induction n generalizing s with
  | zero => simp [fetchSeq]
  | succ n ih =>
    have hpc : s.pc + 1#16 + BitVec.ofNat 16 n = s.pc + BitVec.ofNat 16 (n + 1) := by
      rw [BitVec.add_assoc, ← BitVec.ofNat_add, Nat.add_comm]
    rw [← hpc]
    exact ih (fetch8 s).2

/-- Three bytes are enough for any row of the opcode map. -/
theorem decode_fetchSeq_three (s : State) : ∃ i rest, decode (fetchSeq 3 s).1 = .ok (i, rest) := by
  simp only [fetchSeq, decode]
  cases entryOf (fetch8 s).1 <;> exact ⟨_, _, rfl⟩

/-- Settles O10: a fetch is as many fetches of a byte as the instruction has bytes to read; a resolver reads its pointer. -/
theorem fetchAndResolversOnlyMovePC : Obligations.FetchAndResolversOnlyMovePC := by
  refine ⟨fun s => ?_, fun m s => ?_⟩
  · obtain ⟨i, rest, hdec⟩ := decode_fetchSeq_three s
    obtain ⟨reads, hbus, hreads⟩ := (fetchSeq_transacts (fetchedBytes i) s).only_reads
    rw [fetchInstr_of_decode hdec]
    exact ⟨reads, by rw [fetchSeq_snd, hbus], hreads⟩
  · obtain ⟨reads, hbus, hreads⟩ := (resolve_transacts m s).only_reads
    exact ⟨reads, by rw [resolve_snd, hbus], hreads⟩

/-- Settles O8: a direct mode adds its index in the zero page or in the whole address space, and reads nothing. -/
theorem directModesComputeTheAddress : Obligations.DirectModesComputeTheAddress := by
  refine ⟨fun s b w => ⟨?_, zext16_toNat b, zext16_add_toNat b s.x, zext16_add_toNat b s.y, rfl, add_zext16_toNat w s.x,
    add_zext16_toNat w s.y⟩, fun _ _ => rfl, fun _ _ => rfl⟩
  simp only [List.forall_mem_cons, resolve, List.not_mem_nil, false_imp_iff, implies_true, and_self]

end Sys2Proof.Machine
end

section
/-! PROOFS. The family 41_arithmetic.md: the adders and the comparison as arithmetic, and what an instruction that reads an
operand into registers and flags does. -/

namespace Sys2Proof.Machine

open Sys2Proof.Stmt

/-! The opcodes of an instruction on an operand (30_encoding.md R71 to R76). -/

theorem encB8_of_entryOf {op : Byte} {f : Byte → Instr} (h : entryOf op = .b8 f) : EncB8 op f := fun b rest => by
  rw [decode, h, buildInstr]

theorem encW16_of_entryOf {op : Byte} {f : Word → Instr} (h : entryOf op = .w16 f) : EncW16 op f := fun l hi rest => by
  rw [decode, h, buildInstr, mkWord, word]

/-- The nine opcodes of `f` have the rows of their modes in the opcode map. -/
theorem aluOpcodes_of_rows {f : Operand → Instr} {imm zp zpx abs abx aby zix ziy zpi : Byte}
    (h : [imm, zp, zpx, abs, abx, aby, zix, ziy, zpi].map entryOf =
      [Mode.imm, .zp, .zpx, .abs, .abx, .aby, .zix, .ziy, .zpi].map (operandRow f)) :
    AluOpcodes f imm zp zpx abs abx aby zix ziy zpi := by
  simp only [List.map_cons, List.map_nil, List.cons.injEq, and_true] at h
  obtain ⟨himm, hzp, hzpx, habs, habx, haby, hzix, hziy, hzpi⟩ := h
  exact ⟨encB8_of_entryOf himm, encB8_of_entryOf hzp, encB8_of_entryOf hzpx, encW16_of_entryOf habs,
    encW16_of_entryOf habx, encW16_of_entryOf haby, encB8_of_entryOf hzix, encB8_of_entryOf hziy, encB8_of_entryOf hzpi⟩

/-! What an instruction on an operand keeps (40_addressing_modes.md R118). -/

/-- After the operand's reads, an update `g` of registers and flags makes what it would have made before them, but for the
record of transactions. -/
theorem operandRule_of_update {f : Operand → Instr} {post : Byte → State → State → Prop} (g : Byte → State → State)
    (hexec : ∀ o s, exec (f o) s = .next (g (readOperand o s).1 (readOperand o s).2))
    (hmem : ∀ m s, (g m s).mem = s.mem) (hbus : ∀ m s, (g m s).bus = s.bus)
    (hpost : ∀ m s bus, post m s (g m { s with bus := bus })) : OperandRule f post := by
  intro o s
  have hkeeps := (hmem (readOperand o s).1 (readOperand o s).2).trans (readOperand_mem o s)
  have hread := hpost (readOperand o s).1 s (readOperand o s).2.bus
  rw [← readOperand_snd] at hread
  exact ⟨_, hexec o s, ⟨hkeeps, peek_congr hkeeps⟩, hbus _ _, hread⟩

/-- An adder's result and flags go into `A` and the flags and nowhere else (41_arithmetic.md R125, R126). -/
theorem operandRule_addLike {f : Operand → Instr} {alu : Bool → Byte → Byte → Bool → AluOut}
    {Result : Byte → Byte → Bool → Bool → Byte → Bool → Bool → Prop}
    (hexec : ∀ o s, exec (f o) s = .next (addLike alu o s))
    (halu : ∀ a m c d, Result a m c d (alu d a m c).r (alu d a m c).c (alu d a m c).v) :
    OperandRule f fun m s t => Result s.a m s.p.c s.p.d t.a t.p.c t.p.v ∧
      t = { s with a := t.a, p := nz t.a { s.p with c := t.p.c, v := t.p.v }, bus := t.bus } :=
  operandRule_of_update
    (fun m s => { s with a := (alu s.p.d s.a m s.p.c).r, p := aluFlags (alu s.p.d s.a m s.p.c) s.p }) hexec
    (fun _ _ => rfl) (fun _ _ => rfl) fun m s _ => ⟨halu s.a m s.p.c s.p.d, by simp only [aluFlags, setNZ_eq, nz]⟩

/-! Addition (41_arithmetic.md R121, R122). -/

theorem lowNibble_toNat (v : Byte) : (v &&& 0x0F).toNat = v.toNat % 16 :=
  (BitVec.toNat_and v 0x0F).trans (Nat.and_two_pow_sub_one_eq_mod v.toNat 4)

theorem highNibble_toNat (v : Byte) : (v &&& 0xF0).toNat = v.toNat / 16 * 16 := by
  have hdiv : (v.toNat &&& 0xF0) / 2 ^ 4 = v.toNat / 16 % 2 ^ 4 := by
    rw [Nat.and_div_two_pow]
    exact Nat.and_two_pow_sub_one_eq_mod _ 4
  have hmod : (v.toNat &&& 0xF0) % 2 ^ 4 = 0 := by
    rw [Nat.and_mod_two_pow]
    exact Nat.and_zero _
  have hlt := v.isLt
  rw [BitVec.toNat_and, show (0xF0 : Byte).toNat = 0xF0 from rfl]
  omega

theorem adcBinary_result (a m : Byte) (c : Bool) :
    AdcResult a m c false (adcBinary a m c).r (adcBinary a m c).c (adcBinary a m c).v := by
  refine ⟨fun _ => ⟨?_, ?_, overflow_eq a m _⟩, Bool.noConfusion⟩
  · simp only [adcBinary, b2i_eq_toNat, BitVec.toNat_ofNat, Nat.reducePow]
  · simp only [adcBinary, b2i_eq_toNat, gt_iff_lt]

theorem adcDecimal_result (a m : Byte) (c : Bool) :
    AdcResult a m c true (adcDecimal a m c).r (adcDecimal a m c).c (adcDecimal a m c).v := by
  refine ⟨Bool.noConfusion, fun _ => ?_⟩
  simp only [adcDecimal, lowNibble_toNat, highNibble_toNat, b2i_eq_toNat, overflow_eq, BitVec.toNat_ofNat, gt_iff_lt,
    Nat.reducePow, and_self]

/-- Settles O11: the rows of the opcode map, and by the value of `D` the binary or the decimal sum. -/
theorem adcAddsWithCarry : Obligations.AdcAddsWithCarry := by
  refine ⟨aluOpcodes_of_rows rfl, operandRule_addLike (fun _ _ => rfl) fun a m c d => ?_⟩
  cases d with
  | false => exact adcBinary_result a m c
  | true => exact adcDecimal_result a m c

/-- With an immediate operand the sum is that of `A` and the byte (40_addressing_modes.md R104). -/
theorem exec_adc_imm (s : State) (m : Byte) :
    ∃ t, exec (.adc (.imm m)) s = .next t ∧ AdcResult s.a m s.p.c s.p.d t.a t.p.c t.p.v := by
  obtain ⟨-, hrule⟩ := adcAddsWithCarry
  obtain ⟨t, ht, -, -, hsum, -⟩ := hrule (.imm m) s
  exact ⟨t, ht, hsum⟩

/-! Subtraction (41_arithmetic.md R123, R124). -/

/-- The difference is the sum with the complement, less 256. -/
theorem sbcBinary_result (a m : Byte) (c : Bool) :
    SbcResult a m c false (sbcBinary a m c).r (sbcBinary a m c).c (sbcBinary a m c).v := by
  have hsum : AdcResult a (~~~m) c false (sbcBinary a m c).r (sbcBinary a m c).c (sbcBinary a m c).v :=
    adcBinary_result a (~~~m) c
  obtain ⟨hr, hc, hv⟩ := hsum.1 rfl
  have hm := m.isLt
  rw [BitVec.toNat_not] at hr hc hv
  refine ⟨?_, hc.trans ?_, hv.trans ?_⟩
  · rw [if_neg Bool.false_ne_true]
    omega
  · rw [decide_eq_decide]
    omega
  · rw [decide_eq_decide]
    omega

/-- The decimal difference takes its `V` from the binary one (decision D17). -/
theorem sbcDecimal_result (a m : Byte) (c : Bool) :
    SbcResult a m c true (sbcDecimal a m c).r (sbcDecimal a m c).c (sbcDecimal a m c).v := by
  obtain ⟨-, -, hv⟩ := sbcBinary_result a m c
  refine ⟨?_, ?_, hv⟩
  · simp only [sbcDecimal, lowNibble_toNat, b2i_eq_toNat, BitVec.toNat_ofInt, if_true]
    omega
  · simp only [sbcDecimal, b2i_eq_toNat, ge_iff_le]

/-- Settles O12: the rows of the opcode map, and by the value of `D` the binary or the decimal difference. -/
theorem sbcSubtractsWithBorrow : Obligations.SbcSubtractsWithBorrow := by
  refine ⟨aluOpcodes_of_rows rfl, operandRule_addLike (fun _ _ => rfl) fun a m c d => ?_⟩
  cases d with
  | false => exact sbcBinary_result a m c
  | true => exact sbcDecimal_result a m c

/-- With an immediate operand the difference is that of `A` and the byte (40_addressing_modes.md R104). -/
theorem exec_sbc_imm (s : State) (m : Byte) :
    ∃ t, exec (.sbc (.imm m)) s = .next t ∧ SbcResult s.a m s.p.c s.p.d t.a t.p.c t.p.v := by
  obtain ⟨-, hrule⟩ := sbcSubtractsWithBorrow
  obtain ⟨t, ht, -, -, hdiff, -⟩ := hrule (.imm m) s
  exact ⟨t, ht, hdiff⟩

/-- Settles O13: with `D` clear both instructions run the binary adder, and its carry out is that of the difference. -/
theorem sbcIsAdcOfComplement : Obligations.SbcIsAdcOfComplement := by
  refine ⟨fun s v hd => ?_, fun a m c => ⟨rfl, ?_⟩⟩
  · simp only [exec, execSbc, execAdc, addLike, readOperand, hd, Bool.false_eq_true, if_false, sbcBinary]
  · obtain ⟨-, hc, -⟩ := sbcBinary_result a m c
    rw [hc, decide_eq_decide]
    omega

/-! Overflow (41_arithmetic.md R120). -/

/-- Operands of one sign and a result of the other are what a sum outside the range of a signed byte leaves. -/
theorem overflow_iff_of_adcResult {a m r : Byte} {c c' v' : Bool} (h : AdcResult a m c false r c' v') :
    v' = true ↔ a.toInt + m.toInt + c.toNat < -128 ∨ 127 < a.toInt + m.toInt + c.toNat := by
  obtain ⟨hr, -, hv⟩ := h.1 rfl
  have ha := a.isLt
  have hm := m.isLt
  have hc := c.toNat_lt
  rw [hv, decide_eq_true_iff, BitVec.toInt_eq_toNat_cond, BitVec.toInt_eq_toNat_cond]
  split <;> split <;> omega

/-- The complement is the negation less one, with no exception at -128. -/
theorem toInt_not_eq_neg_sub (m : Byte) : (~~~m).toInt = -m.toInt - 1 := by
  have hm := m.isLt
  rw [BitVec.toInt_eq_toNat_cond, BitVec.toInt_eq_toNat_cond, BitVec.toNat_not]
  split <;> split <;> omega

theorem exec_adc_imm_overflow_iff {s : State} (hd : s.p.d = false) (m : Byte) :
    ∃ t, exec (.adc (.imm m)) s = .next t ∧
      (t.p.v = true ↔ s.a.toInt + m.toInt + s.p.c.toNat < -128 ∨ 127 < s.a.toInt + m.toInt + s.p.c.toNat) := by
  obtain ⟨t, ht, hsum⟩ := exec_adc_imm s m
  exact ⟨t, ht, overflow_iff_of_adcResult (hd ▸ hsum)⟩

/-- Settles O14: SBC overflows as ADC of the complement does, which stands for the negated operand less one. -/
theorem overflowIsSignedOverflow : Obligations.OverflowIsSignedOverflow := by
  intro s m hd
  obtain ⟨t, ht, hv⟩ := exec_adc_imm_overflow_iff hd (~~~m)
  refine ⟨exec_adc_imm_overflow_iff hd m, t, (sbcIsAdcOfComplement.1 s m hd).trans ht, hv.trans ?_⟩
  rw [toInt_not_eq_neg_sub]
  omega

/-! Decimal digits (41_arithmetic.md R122, R124; 90_conflicts.md C7). -/

/-- The byte of two decimal digits, the tens in the high nibble. -/
def IsBcd (v : Byte) (tens ones : Nat) : Prop := tens ≤ 9 ∧ ones ≤ 9 ∧ v.toNat = tens * 16 + ones

/-- A byte made of the two low digits of a number, which may be negative. -/
theorem isBcd_of_digits {r : Byte} {total : Int} (h : (r.toNat : Int) = total / 10 % 10 * 16 + total % 10) :
    ∃ rh rl, IsBcd r rh rl ∧ ((rh * 10 + rl : Nat) : Int) = total % 100 :=
  ⟨(total / 10 % 10).toNat, (total % 10).toNat, ⟨by omega, by omega, by omega⟩, by omega⟩

/-- The two corrections of R122: six where the low digits reach ten, 0x60 where the sum reaches a hundred, make the two low
digits of the decimal sum. -/
theorem decimalCorrection_sum {high low : Nat} (hhigh : high ≤ 18) (hlow : low ≤ 19) :
    let total := high * 10 + low
    let lo := if 9 < low then low + 6 else low
    let sum := high * 16 + lo
    (if 0x9F < sum then sum + 0x60 else sum) % 256 = total / 10 % 10 * 16 + total % 10 ∧ (0x9F < sum ↔ 100 ≤ total) := by
  dsimp only
  by_cases hten : 9 < low
  · have htens : (high * 10 + low) / 10 = high + 1 := by omega
    have hones : (high * 10 + low) % 10 = low - 10 := by omega
    rw [if_pos hten, htens, hones]
    split <;> omega
  · have htens : (high * 10 + low) / 10 = high := by omega
    have hones : (high * 10 + low) % 10 = low := by omega
    rw [if_neg hten, htens, hones]
    split <;> omega

theorem decimalSum_of_adcResult {a m r : Byte} {c c' v' : Bool} {ah al mh ml : Nat} (ha : IsBcd a ah al)
    (hm : IsBcd m mh ml) (h : AdcResult a m c true r c' v') :
    ∃ rh rl, IsBcd r rh rl ∧ c'.toNat * 100 + (rh * 10 + rl) = (ah * 10 + al) + (mh * 10 + ml) + c.toNat := by
  obtain ⟨hah, hal, ha⟩ := ha
  obtain ⟨hmh, hml, hm⟩ := hm
  obtain ⟨hr, hc', -⟩ := h.2 rfl
  have hc := c.toNat_lt
  have hlow : a.toNat % 16 + m.toNat % 16 + c.toNat = al + ml + c.toNat := by omega
  have hhigh : a.toNat / 16 * 16 + m.toNat / 16 * 16 = (ah + mh) * 16 := by omega
  rw [hlow, hhigh] at hr hc'
  obtain ⟨hdigits, hcarry⟩ := decimalCorrection_sum (high := ah + mh) (low := al + ml + c.toNat) (by omega) (by omega)
  obtain ⟨rh, rl, hbcd, hvalue⟩ :=
    isBcd_of_digits (total := ((ah + mh) * 10 + (al + ml + c.toNat) : Nat)) (mod_cast hr.trans hdigits)
  refine ⟨rh, rl, hbcd, ?_⟩
  rw [hc'.trans (decide_eq_decide.mpr hcarry), Bool.toNat, Bool.cond_decide]
  clear hr hdigits hc' hcarry hlow hhigh
  split <;> omega

/-- The two corrections of R124: 0x60 off where the difference is negative, six off where the low digits' is, make the two
low digits of the decimal difference. -/
theorem decimalCorrection_difference {high low : Int} (hhigh : -9 ≤ high ∧ high ≤ 9) (hlow : -10 ≤ low ∧ low ≤ 9) :
    let total := high * 10 + low
    let diff := high * 16 + low
    let corrected := if diff < 0 then diff - 0x60 else diff
    (if low < 0 then corrected - 6 else corrected) % 256 = total / 10 % 10 * 16 + total % 10 ∧ (0 ≤ diff ↔ 0 ≤ total) := by
  dsimp only
  by_cases hborrow : low < 0
  · have htens : (high * 10 + low) / 10 = high - 1 := by omega
    have hones : (high * 10 + low) % 10 = low + 10 := by omega
    rw [if_pos hborrow, htens, hones]
    split <;> omega
  · have htens : (high * 10 + low) / 10 = high := by omega
    have hones : (high * 10 + low) % 10 = low := by omega
    rw [if_neg hborrow, htens, hones]
    split <;> omega

theorem decimalDifference_of_sbcResult {a m r : Byte} {c c' v' : Bool} {ah al mh ml : Nat} (ha : IsBcd a ah al)
    (hm : IsBcd m mh ml) (h : SbcResult a m c true r c' v') :
    ∃ rh rl, IsBcd r rh rl ∧ ((rh * 10 + rl : Nat) : Int) - (if c' then 0 else 100) =
      ((ah * 10 + al : Nat) : Int) - (mh * 10 + ml : Nat) - (1 - c.toNat) := by
  obtain ⟨hah, hal, ha⟩ := ha
  obtain ⟨hmh, hml, hm⟩ := hm
  obtain ⟨hr, hc', -⟩ := h
  have hc := c.toNat_lt
  have hlow : ((a.toNat % 16 : Nat) : Int) - (m.toNat % 16 : Nat) + c.toNat - 1 = al - ml + c.toNat - 1 := by omega
  have hdiff : (a.toNat : Int) - m.toNat + c.toNat - 1 = (ah - mh) * 16 + (al - ml + c.toNat - 1) := by omega
  simp only [hlow, hdiff, if_true] at hr hc'
  obtain ⟨hdigits, hcarry⟩ := decimalCorrection_difference (high := ah - mh) (low := al - ml + c.toNat - 1)
    (by omega) (by omega)
  obtain ⟨rh, rl, hbcd, hvalue⟩ := isBcd_of_digits (hr.trans hdigits)
  refine ⟨rh, rl, hbcd, ?_⟩
  simp only [hvalue, hc'.trans (decide_eq_decide.mpr hcarry), decide_eq_true_eq]
  clear hr hdigits hc' hcarry hvalue
  split <;> omega

/-- Settles O15: the decimal result on the digits of `A` and the operand. -/
theorem decimalAddOfDigits : Obligations.DecimalAddOfDigits := by
  intro s m ah al mh ml hd hah hal hmh hml ha hm
  obtain ⟨t, ht, hsum⟩ := exec_adc_imm s m
  rw [hd] at hsum
  obtain ⟨rh, rl, ⟨hrh, hrl, hr⟩, hdec⟩ := decimalSum_of_adcResult ⟨hah, hal, ha⟩ ⟨hmh, hml, hm⟩ hsum
  exact ⟨t, rh, rl, ht, hrh, hrl, hr, hdec⟩

/-- Settles O16: the decimal result on the digits of `A` and the operand. -/
theorem decimalSubtractOfDigits : Obligations.DecimalSubtractOfDigits := by
  intro s m ah al mh ml hd hah hal hmh hml ha hm
  obtain ⟨t, ht, hdiff⟩ := exec_sbc_imm s m
  rw [hd] at hdiff
  obtain ⟨rh, rl, ⟨hrh, hrl, hr⟩, hdec⟩ := decimalDifference_of_sbcResult ⟨hah, hal, ha⟩ ⟨hmh, hml, hm⟩ hdiff
  exact ⟨t, rh, rl, ht, hrh, hrl, hr, hdec⟩

/-! Comparison (41_arithmetic.md R127). -/

/-- `Compare` in arithmetic: the truncated difference is zero exactly where the bytes are equal. -/
theorem compareFlags_eq (reg m : Byte) (p : Flags) :
    compareFlags reg m p = { p with
      n := decide (0x80 ≤ (reg.toNat + (256 - m.toNat)) % 256)
      z := decide (reg = m)
      c := decide (m.toNat ≤ reg.toNat) } := by
  have hz : (reg - m).toNat = 0 ↔ reg = m := BitVec.toNat_eq.symm.trans sub_eq_zero
  rw [compareFlags, setNZ_eq, decide_eq_decide.mpr hz, BitVec.toNat_sub']

/-- A comparison with a register writes flags only (41_arithmetic.md R127 to R130). -/
theorem operandRule_compareWith {f : Operand → Instr} {reg : State → Byte}
    (hexec : ∀ o s, exec (f o) s = .next (compareWith reg o s)) (hreg : ∀ s bus, reg { s with bus := bus } = reg s) :
    OperandRule f fun m s t =>
      t = { s with p := t.p, bus := t.bus } ∧
      t.p = { s.p with n := t.p.n, z := decide (reg s = m), c := decide (m.toNat ≤ (reg s).toNat) } ∧
      t.p.n = decide (0x80 ≤ ((reg s).toNat + (256 - m.toNat)) % 256) :=
  operandRule_of_update (fun m s => { s with p := compareFlags (reg s) m s.p }) hexec (fun _ _ => rfl) (fun _ _ => rfl)
    fun m s bus => ⟨rfl, by simp only [compareFlags_eq, hreg], by simp only [compareFlags_eq, hreg]⟩

/-- Settles O17: the rows of the opcode map, and the comparison of each register. -/
theorem comparesSetFlagsOnly : Obligations.ComparesSetFlagsOnly :=
  ⟨aluOpcodes_of_rows rfl,
    ⟨encB8_of_entryOf rfl, encB8_of_entryOf rfl, encW16_of_entryOf rfl⟩,
    ⟨encB8_of_entryOf rfl, encB8_of_entryOf rfl, encW16_of_entryOf rfl⟩,
    operandRule_compareWith (fun _ _ => rfl) fun _ _ => rfl,
    operandRule_compareWith (fun _ _ => rfl) fun _ _ => rfl,
    operandRule_compareWith (fun _ _ => rfl) fun _ _ => rfl⟩

end Sys2Proof.Machine
end

section
/-! PROOFS. The family 42_logic.md: what is computed bit by bit, the bit test, and a byte of memory read and then written. -/

namespace Sys2Proof.Machine

open Sys2Proof.Stmt

/-! Logic into A (42_logic.md R140 to R142). -/

/-- A byte operation that works bit by bit goes into `A`, with its `N` and `Z`, and nowhere else. -/
theorem operandRule_logicInto {f : Operand → Instr} {byteOp : Byte → Byte → Byte} {bitOp : Bool → Bool → Bool}
    (hexec : ∀ o s, exec (f o) s = .next (logicInto byteOp o s))
    (hbits : ∀ a m k, (byteOp a m).toNat.testBit k = bitOp (a.toNat.testBit k) (m.toNat.testBit k)) :
    OperandRule f fun m s t =>
      (∀ k < 8, t.a.toNat.testBit k = bitOp (s.a.toNat.testBit k) (m.toNat.testBit k)) ∧
      t = { s with a := t.a, p := nz t.a s.p, bus := t.bus } :=
  operandRule_of_update (fun m s => { s with a := byteOp s.a m, p := setNZ (byteOp s.a m) s.p }) hexec
    (fun _ _ => rfl) (fun _ _ => rfl) fun m s _ => ⟨fun k _ => hbits s.a m k, by simp only [setNZ_eq, nz]⟩

/-- Settles O18: the rows of the opcode map, and each bit of the three operations. -/
theorem logicCombinesIntoA : Obligations.LogicCombinesIntoA :=
  ⟨aluOpcodes_of_rows rfl, aluOpcodes_of_rows rfl, aluOpcodes_of_rows rfl,
    operandRule_logicInto (fun _ _ => rfl) fun _ _ _ => BitVec.getLsbD_and,
    operandRule_logicInto (fun _ _ => rfl) fun _ _ _ => BitVec.getLsbD_or,
    operandRule_logicInto (fun _ _ => rfl) fun _ _ _ => BitVec.getLsbD_xor⟩

/-! The bit test (42_logic.md R143 to R145). -/

/-- `Z` of a bit test: no bit is set in both bytes. -/
theorem testFlags_z_iff (a m : Byte) (p : Flags) :
    (testFlags a m p).z = true ↔ ∀ k < 8, ¬(a.toNat.testBit k = true ∧ m.toNat.testBit k = true) := by
  have hand (k : Nat) : (a &&& m).getLsbD k = true ↔ a.toNat.testBit k = true ∧ m.toNat.testBit k = true := by
    rw [BitVec.getLsbD_and, Bool.and_eq_true]
    rfl
  simp only [testFlags, beq_iff_eq, ← hand]
  refine ⟨fun hzero k _ => ?_, fun hclear => BitVec.eq_of_getLsbD_eq fun k hk => ?_⟩
  · simp [hzero]
  · simpa using hclear k hk

/-- The flags of BIT on a form of the operand: an immediate byte gives `Z` only. -/
def bitTestFlags : Operand → Byte → Byte → Flags → Flags
  | .imm _ => testFlags
  | .mem _ => bitFlags

/-- BIT writes those flags and makes the operand's reads. -/
theorem exec_bit (o : Operand) (s : State) :
    exec (.bit o) s = .next { s with
      p := bitTestFlags o s.a (readOperand o s).1 s.p
      bus := (readOperand o s).2.bus } := by
  cases o with
  | imm b => rfl
  | mem m =>
    simp only [exec, execBit, readOperand_a, readOperand_p]
    rw [readOperand_snd]
    rfl

/-- Both forms set the same `Z` and write no flag but `N`, `V` and `Z`. -/
theorem bitTestFlags_eq (o : Operand) (a m : Byte) (p : Flags) :
    bitTestFlags o a m p =
      { p with n := (bitTestFlags o a m p).n, v := (bitTestFlags o a m p).v, z := (testFlags a m p).z } := by
  cases o <;> rfl

/-- What the two forms of BIT have in common. -/
theorem operandRule_bit :
    OperandRule .bit fun m s t =>
      t = { s with p := { s.p with n := t.p.n, v := t.p.v, z := t.p.z }, bus := t.bus } ∧
      (t.p.z = true ↔ ∀ k < 8, ¬(s.a.toNat.testBit k = true ∧ m.toNat.testBit k = true)) := by
  intro o s
  refine ⟨_, exec_bit o s, ⟨rfl, fun _ => rfl⟩, rfl, ?_, ?_⟩
  · rw [bitTestFlags_eq]
  · rw [bitTestFlags_eq]
    exact testFlags_z_iff s.a (readOperand o s).1 s.p

/-- Settles O19: the rows of the opcode map, what both forms do, and `N` and `V` of each. -/
theorem bitTestsTheOperand : Obligations.BitTestsTheOperand :=
  ⟨encB8_of_entryOf rfl, encB8_of_entryOf rfl, encB8_of_entryOf rfl, encW16_of_entryOf rfl, encW16_of_entryOf rfl,
    operandRule_bit, fun b s => ⟨_, exec_bit (.imm b) s, rfl, rfl⟩, fun m s => ⟨_, exec_bit (.mem m) s, rfl, rfl⟩⟩

/-! A byte of memory read and then written (42_logic.md R144, R145). -/

/-- Memory after one write, made in a state `u` that holds the memory and the devices of `s`. -/
theorem memoryAfter_of_busWrite {s u t : State} {addr : Word} {v : Byte} (hmem : u.mem = s.mem)
    (hdevices : u.devices = s.devices) (hwrite : t.mem = (busWrite addr v u).mem) : MemoryAfter [(addr, v)] s t := by
  have hpeek (b : Word) : peek t b = if b = addr ∧ isDevice s addr = false then v else peek s b := by
    rw [peek_congr hwrite, peek_busWrite, isDevice_congr hdevices, peek_congr hmem]
  refine ⟨fun b w hw hplain => ?_, fun b hdevice => ?_, fun b hno => ?_⟩
  · obtain ⟨rfl, rfl⟩ := Prod.mk.inj (List.mem_singleton.mp hw)
    rw [hpeek, if_pos ⟨rfl, hplain⟩]
  · rw [hpeek, if_neg]
    rintro ⟨rfl, hplain⟩
    exact Bool.false_ne_true (hplain.symm.trans hdevice)
  · rw [hpeek, if_neg]
    rintro ⟨rfl, -⟩
    exact hno v (List.mem_singleton_self _)

/-- Memory after a test-and-write is that after its one write, of the result at the effective address. -/
theorem testAndWrite_memoryAfter (f : Byte → Byte → Byte) (m : Addr) (s : State) :
    MemoryAfter [((resolve m s).1, f s.a (answer (resolve m s).2 (resolve m s).1))] s (testAndWrite f m s) := by
  refine memoryAfter_of_busWrite (u := (resolve m s).2) (resolve_mem m s) (resolve_devices m s) ?_
  simp [testAndWrite]

/-- The state after a test-and-write: `Z` from the byte read, one read and then one write of the effective address. -/
theorem testAndWrite_eq (f : Byte → Byte → Byte) (m : Addr) (s : State) :
    testAndWrite f m s = { s with
      p := testFlags s.a (answer (resolve m s).2 (resolve m s).1) s.p
      mem := (testAndWrite f m s).mem
      bus := .write (resolve m s).1 (f s.a (answer (resolve m s).2 (resolve m s).1)) ::
        .read (resolve m s).1 (answer (resolve m s).2 (resolve m s).1) :: (resolve m s).2.bus } := by
  apply State.ext <;> simp [testAndWrite]

/-- A test-and-write whose byte operation works bit by bit. -/
theorem testAndWrite_rule {f : Addr → Instr} {byteOp : Byte → Byte → Byte} {bitOp : Bool → Bool → Bool}
    (hexec : ∀ m s, exec (f m) s = .next (testAndWrite byteOp m s))
    (hbits : ∀ a v : Byte, ∀ k < 8, (byteOp a v).toNat.testBit k = bitOp (a.toNat.testBit k) (v.toNat.testBit k))
    (m : Addr) (s : State) : ∃ (t : State) (v r : Byte) (z : Bool),
      let ea := (resolve m s).1
      let u := (resolve m s).2
      v = answer u ea ∧ exec (f m) s = .next t ∧ MemoryAfter [(ea, r)] s t ∧
      (∀ k < 8, r.toNat.testBit k = bitOp (s.a.toNat.testBit k) (v.toNat.testBit k)) ∧
      (z = true ↔ ∀ k < 8, ¬(s.a.toNat.testBit k = true ∧ v.toNat.testBit k = true)) ∧
      t = { s with p := { s.p with z := z }, mem := t.mem, bus := .write ea r :: .read ea v :: u.bus } :=
  ⟨testAndWrite byteOp m s, _, _, _, rfl, hexec m s, testAndWrite_memoryAfter byteOp m s, hbits s.a _,
    testFlags_z_iff s.a _ s.p, testAndWrite_eq byteOp m s⟩

/-- The bits of TRB's result: those of the byte that are not set in `A`. -/
theorem testBit_and_not (a v : Byte) (k : Nat) (hk : k < 8) :
    (v &&& ~~~a).toNat.testBit k = (v.toNat.testBit k && !a.toNat.testBit k) := by
  have hnot : (~~~a).getLsbD k = !a.getLsbD k := by rw [BitVec.getLsbD_not, decide_eq_true hk, Bool.true_and]
  exact BitVec.getLsbD_and.trans (congrArg (v.getLsbD k && ·) hnot)

/-- Settles O20: the rows of the opcode map, and each bit of the two results. -/
theorem testAndSetResetBits : Obligations.TestAndSetResetBits :=
  ⟨encB8_of_entryOf rfl, encW16_of_entryOf rfl, encB8_of_entryOf rfl, encW16_of_entryOf rfl,
    testAndWrite_rule (bitOp := fun a v => v && !a) (fun _ _ => rfl) testBit_and_not,
    testAndWrite_rule (bitOp := fun a v => v || a) (fun _ _ => rfl) fun _ _ _ _ => BitVec.getLsbD_or⟩

end Sys2Proof.Machine
end

section
/-! PROOFS. The family 43_shift_incdec.md: the byte operations as arithmetic, the operation on `A` or on a byte of memory,
and the counts of the index registers. -/

namespace Sys2Proof.Machine

open Sys2Proof.Stmt

/-! The opcodes (30_encoding.md R71 to R76). -/

theorem encOp_of_entryOf {op : Byte} {i : Instr} (h : entryOf op = .op i) : EncOp op i := fun rest => by
  rw [decode, h, buildInstr]

/-- The five opcodes of `f` have the rows of their modes in the opcode map. -/
theorem rmwOpcodes_of_rows {f : Target → Instr} {acc zp zpx abs abx : Byte}
    (h : [acc, zp, zpx, abs, abx].map entryOf = rmwModes.map (targetRow f)) : RmwOpcodes f acc zp zpx abs abx := by
  simp only [rmwModes, List.map_cons, List.map_nil, List.cons.injEq, and_true] at h
  obtain ⟨hacc, hzp, hzpx, habs, habx⟩ := h
  exact ⟨encOp_of_entryOf hacc, encB8_of_entryOf hzp, encB8_of_entryOf hzpx, encW16_of_entryOf habs,
    encW16_of_entryOf habx⟩

/-! The byte operations as arithmetic (43_shift_incdec.md R161 to R166). -/

/-- What a byte operation computes from a byte and the flags: `result` of the byte and the carry, modulo 256, with its `N`
and `Z`, and `carry` of them as the new carry; every other flag is kept. -/
structure ByteOpRule (byteOp : Byte → Flags → Byte × Flags) (result : Nat → Nat → Nat) (carry : Nat → Bool → Bool) :
    Prop where
  value : ∀ m p, (byteOp m p).1.toNat = result m.toNat p.c.toNat % 256
  flags : ∀ m p, (byteOp m p).2 = nz (byteOp m p).1 { p with c := carry m.toNat p.c }

theorem aslOp_rule : ByteOpRule aslOp (fun m _ => m * 2) (fun m _ => decide (0x80 ≤ m)) where
  value _ _ := BitVec.toNat_ofNat ..
  flags m p := by simp only [aslOp, setNZ_eq, nz, bit7_eq]

theorem lsrOp_rule : ByteOpRule lsrOp (fun m _ => m / 2) (fun m _ => decide (m % 2 = 1)) where
  value _ _ := BitVec.toNat_ofNat ..
  flags m p := by simp only [lsrOp, setNZ_eq, nz, bit0_eq]

theorem rolOp_rule : ByteOpRule rolOp (fun m c => m * 2 + c) (fun m _ => decide (0x80 ≤ m)) where
  value m p := by rw [← b2i_eq_toNat]; exact BitVec.toNat_ofNat ..
  flags m p := by simp only [rolOp, setNZ_eq, nz, bit7_eq]

theorem rorOp_rule : ByteOpRule rorOp (fun m c => m / 2 + c * 0x80) (fun m _ => decide (m % 2 = 1)) where
  value m p := by rw [← b2i_eq_toNat]; exact BitVec.toNat_ofNat ..
  flags m p := by simp only [rorOp, setNZ_eq, nz, bit0_eq]

theorem incOp_rule : ByteOpRule incOp (fun m _ => m + 1) (fun _ c => c) where
  value m _ := BitVec.toNat_add m 1#8
  flags m p := setNZ_eq (m + 1#8) p

/-- One less is 255 more, modulo 256. -/
theorem decOp_rule : ByteOpRule decOp (fun m _ => m + 255) (fun _ c => c) where
  value m _ := BitVec.toNat_sub' m 1#8
  flags m p := setNZ_eq (m - 1#8) p

/-! The operation on a target (43_shift_incdec.md R160). -/

/-- The byte operation's result and flags for the byte that the bus supplies at the effective address. -/
def modified (byteOp : Byte → Flags → Byte × Flags) (m : Addr) (s : State) : Byte × Flags :=
  byteOp (answer (resolve m s).2 (resolve m s).1) s.p

/-- The state after an operation on a byte of memory: one read and then one write of the effective address. -/
theorem modifyTarget_mem_eq (byteOp : Byte → Flags → Byte × Flags) (m : Addr) (s : State) :
    modifyTarget byteOp (.mem m) s = { s with
      p := (modified byteOp m s).2
      mem := (modifyTarget byteOp (.mem m) s).mem
      bus := .write (resolve m s).1 (modified byteOp m s).1 ::
        .read (resolve m s).1 (answer (resolve m s).2 (resolve m s).1) :: (resolve m s).2.bus } := by
  apply State.ext <;> simp [modifyTarget, modified]

/-- Memory after an operation on a byte of memory is that after its one write. -/
theorem modifyTarget_memoryAfter (byteOp : Byte → Flags → Byte × Flags) (m : Addr) (s : State) :
    MemoryAfter [((resolve m s).1, (modified byteOp m s).1)] s (modifyTarget byteOp (.mem m) s) := by
  refine memoryAfter_of_busWrite (u := (resolve m s).2) (resolve_mem m s) (resolve_devices m s) ?_
  simp [modifyTarget, modified]

/-- An instruction that modifies its target by a byte operation does with the target what the operation computes. -/
theorem rmwRule_of_byteOpRule {f : Target → Instr} {byteOp : Byte → Flags → Byte × Flags} {result : Nat → Nat → Nat}
    {carry : Nat → Bool → Bool} (hop : ByteOpRule byteOp result carry)
    (hexec : ∀ r s, exec (f r) s = .next (modifyTarget byteOp r s)) : RmwRule f result carry := by
  refine ⟨fun s => ⟨(byteOp s.a s.p).1, hop.value s.a s.p, ?_⟩, fun m s =>
    ⟨modifyTarget byteOp (.mem m) s, _, (modified byteOp m s).1, rfl, hop.value _ s.p, hexec (.mem m) s,
      modifyTarget_memoryAfter byteOp m s, ?_⟩⟩
  · rw [hexec, ← hop.flags]
    rfl
  · exact (modifyTarget_mem_eq byteOp m s).trans (by rw [modified, hop.flags])

/-- Settles O21: the rows of the opcode map, and the arithmetic of each shift and rotate. -/
theorem shiftsAndRotates : Obligations.ShiftsAndRotates :=
  ⟨rmwOpcodes_of_rows rfl, rmwOpcodes_of_rows rfl, rmwOpcodes_of_rows rfl, rmwOpcodes_of_rows rfl,
    rmwRule_of_byteOpRule aslOp_rule fun _ _ => rfl, rmwRule_of_byteOpRule lsrOp_rule fun _ _ => rfl,
    rmwRule_of_byteOpRule rolOp_rule fun _ _ => rfl, rmwRule_of_byteOpRule rorOp_rule fun _ _ => rfl⟩

/-- Settles O22: the rows of the opcode map, and the arithmetic of one more and one less. -/
theorem incrementAndDecrement : Obligations.IncrementAndDecrement :=
  ⟨rmwOpcodes_of_rows rfl, rmwOpcodes_of_rows rfl, rmwRule_of_byteOpRule incOp_rule fun _ _ => rfl,
    rmwRule_of_byteOpRule decOp_rule fun _ _ => rfl⟩

/-! The index registers (43_shift_incdec.md R167 to R170). -/

/-- An instruction that puts a byte operation of a register back into it counts as the operation does, when that adds a
constant and keeps the carry. -/
theorem countRule_of_byteOpRule {i : Instr} {get : State → Byte} {put : State → Byte → State}
    {byteOp : Byte → Flags → Byte × Flags} {n : Nat} (hop : ByteOpRule byteOp (fun m _ => m + n) (fun _ c => c))
    (hexec : ∀ s, exec i s = .next { put s (byteOp (get s) s.p).1 with p := (byteOp (get s) s.p).2 }) :
    CountRule i get put n := fun s =>
  ⟨(byteOp (get s) s.p).1, hop.value (get s) s.p, (hexec s).trans (by rw [hop.flags])⟩

/-- Settles O23: the rows of the opcode map, and the operations of INC and DEC on `X` and `Y`. -/
theorem indexRegistersCount : Obligations.IndexRegistersCount :=
  ⟨⟨encOp_of_entryOf rfl, encOp_of_entryOf rfl, encOp_of_entryOf rfl, encOp_of_entryOf rfl⟩,
    countRule_of_byteOpRule incOp_rule fun _ => rfl, countRule_of_byteOpRule incOp_rule fun _ => rfl,
    countRule_of_byteOpRule decOp_rule fun _ => rfl, countRule_of_byteOpRule decOp_rule fun _ => rfl⟩

end Sys2Proof.Machine
end

section
/-! PROOFS. The family 44_load_store_transfer.md: a byte copied from an operand into a register, from a register into memory,
and from one register to another. -/

namespace Sys2Proof.Machine

open Sys2Proof.Stmt

theorem setNZ_eq_nz (v : Byte) (p : Flags) : setNZ v p = nz v p := setNZ_eq v p

/-! Loads (44_load_store_transfer.md R180 to R182). -/

/-- Settles O24: the rows of the opcode map, and the operand put into each register. -/
theorem loadsCopyTheOperand : Obligations.LoadsCopyTheOperand :=
  ⟨aluOpcodes_of_rows rfl,
    ⟨encB8_of_entryOf rfl, encB8_of_entryOf rfl, encB8_of_entryOf rfl, encW16_of_entryOf rfl, encW16_of_entryOf rfl⟩,
    ⟨encB8_of_entryOf rfl, encB8_of_entryOf rfl, encB8_of_entryOf rfl, encW16_of_entryOf rfl, encW16_of_entryOf rfl⟩,
    operandRule_of_update (fun m s => { s with a := m, p := setNZ m s.p }) (fun _ _ => rfl) (fun _ _ => rfl)
      (fun _ _ => rfl) fun m s _ => by simp only [setNZ_eq_nz],
    operandRule_of_update (fun m s => { s with x := m, p := setNZ m s.p }) (fun _ _ => rfl) (fun _ _ => rfl)
      (fun _ _ => rfl) fun m s _ => by simp only [setNZ_eq_nz],
    operandRule_of_update (fun m s => { s with y := m, p := setNZ m s.p }) (fun _ _ => rfl) (fun _ _ => rfl)
      (fun _ _ => rfl) fun m s _ => by simp only [setNZ_eq_nz]⟩

/-! Stores (44_load_store_transfer.md R183 to R186). -/

/-- A store at the effective address changes memory and the record of transactions and nothing else. -/
theorem storeAt_eq (m : Addr) (v : Byte) (s : State) :
    storeAt m v s = { s with mem := (storeAt m v s).mem, bus := .write (resolve m s).1 v :: (resolve m s).2.bus } := by
  rw [storeAt, busWrite, resolve_snd]

/-- Memory after a store is that after its one write. -/
theorem storeAt_memoryAfter (m : Addr) (v : Byte) (s : State) : MemoryAfter [((resolve m s).1, v)] s (storeAt m v s) :=
  memoryAfter_of_busWrite (resolve_mem m s) (resolve_devices m s) rfl

theorem storeRule_of_storeAt {f : Addr → Instr} {value : State → Byte}
    (hexec : ∀ m s, exec (f m) s = .next (storeAt m (value s) s)) : StoreRule f value := fun m s =>
  ⟨storeAt m (value s) s, hexec m s, storeAt_memoryAfter m (value s) s, storeAt_eq m (value s) s⟩

/-- Settles O25: the rows of the opcode map, and the byte that each store writes. -/
theorem storesWriteOneByte : Obligations.StoresWriteOneByte :=
  ⟨⟨encB8_of_entryOf rfl, encB8_of_entryOf rfl, encW16_of_entryOf rfl, encW16_of_entryOf rfl, encW16_of_entryOf rfl,
      encB8_of_entryOf rfl, encB8_of_entryOf rfl, encB8_of_entryOf rfl⟩,
    ⟨encB8_of_entryOf rfl, encB8_of_entryOf rfl, encW16_of_entryOf rfl⟩,
    ⟨encB8_of_entryOf rfl, encB8_of_entryOf rfl, encW16_of_entryOf rfl⟩,
    ⟨encB8_of_entryOf rfl, encB8_of_entryOf rfl, encW16_of_entryOf rfl, encW16_of_entryOf rfl⟩,
    storeRule_of_storeAt fun _ _ => rfl, storeRule_of_storeAt fun _ _ => rfl, storeRule_of_storeAt fun _ _ => rfl,
    storeRule_of_storeAt fun _ _ => rfl⟩

/-! Transfers (44_load_store_transfer.md R187 to R192). -/

/-- Settles O27: the rows of the opcode map, and each transfer's next state, where `N` and `Z` are those of the byte copied. -/
theorem transfersCopyRegisters : Obligations.TransfersCopyRegisters := by
  refine ⟨⟨encOp_of_entryOf rfl, encOp_of_entryOf rfl, encOp_of_entryOf rfl, encOp_of_entryOf rfl, encOp_of_entryOf rfl,
    encOp_of_entryOf rfl⟩, fun s => ?_⟩
  simp only [← setNZ_eq_nz]
  exact ⟨rfl, rfl, rfl, rfl, rfl, rfl⟩

end Sys2Proof.Machine
end

section
/-! PROOFS. The family 45_stack.md: what a push writes and a pull reads, and a word pushed and pulled back. -/

namespace Sys2Proof.Machine

open Sys2Proof.Stmt

/-! Pushes (45_stack.md R200, R204 to R207). -/

/-- A push changes `SP`, memory and the record of transactions and nothing else. -/
theorem push8_eq (v : Byte) (s : State) :
    push8 v s = { s with sp := s.sp - 1#8, mem := (push8 v s).mem, bus := .write (stackAt s.sp) v :: s.bus } := by
  rw [← stackAddr_eq_stackAt]
  rfl

/-- A push after other writes, at an address that none of them has, is one more write. -/
theorem memoryAfter_push8 {writes : List (Word × Byte)} {s u : State} (h : MemoryAfter writes s u)
    (hdevices : u.devices = s.devices) (hfresh : ∀ w, (stackAt u.sp, w) ∉ writes) (v : Byte) :
    MemoryAfter (writes ++ [(stackAt u.sp, v)]) s (push8 v u) := by
  have hpeek (b : Word) :
      peek (push8 v u) b = if b = stackAt u.sp ∧ isDevice s (stackAt u.sp) = false then v else peek u b := by
    rw [peek_push8, stackAddr_eq_stackAt, isDevice_congr hdevices]
  refine ⟨fun b w hmem hplain => ?_, fun b hdevice => ?_, fun b hno => ?_⟩
  · rw [hpeek]
    obtain hold | hnew := List.mem_append.mp hmem
    · rw [if_neg]
      · exact h.stored b w hold hplain
      · rintro ⟨rfl, -⟩
        exact hfresh w hold
    · obtain ⟨rfl, rfl⟩ := Prod.mk.inj (List.mem_singleton.mp hnew)
      rw [if_pos ⟨rfl, hplain⟩]
  · rw [hpeek, if_neg]
    · exact h.device b hdevice
    · rintro ⟨rfl, hplain⟩
      exact Bool.false_ne_true (hplain.symm.trans hdevice)
  · rw [hpeek, if_neg fun hb => hno v (by simp [hb.1])]
    exact h.others b fun w hw => hno w (List.mem_append_left _ hw)

theorem memoryAfter_nil (s : State) : MemoryAfter [] s s :=
  ⟨fun _ _ hmem => absurd hmem List.not_mem_nil, fun _ _ => rfl, fun _ _ => rfl⟩

/-- Memory after one push is that after its one write. -/
theorem push8_memoryAfter (v : Byte) (s : State) : MemoryAfter [(stackAt s.sp, v)] s (push8 v s) :=
  memoryAfter_push8 (memoryAfter_nil s) rfl (fun _ => List.not_mem_nil) v

theorem pushRule_of_push8 {i : Instr} {value : State → Byte} (hexec : ∀ s, exec i s = .next (push8 (value s) s)) :
    PushRule i value := fun s =>
  ⟨push8 (value s) s, hexec s, push8_memoryAfter (value s) s, push8_eq (value s) s, BitVec.toNat_sub' s.sp 1#8⟩

/-- Settles O29: the rows of the opcode map, and the byte that each instruction pushes. -/
theorem pushesStoreAtTheStackPointer : Obligations.PushesStoreAtTheStackPointer :=
  ⟨⟨encOp_of_entryOf rfl, encOp_of_entryOf rfl, encOp_of_entryOf rfl, encOp_of_entryOf rfl⟩,
    pushRule_of_push8 fun _ => rfl, pushRule_of_push8 fun _ => rfl, pushRule_of_push8 fun _ => rfl,
    pushRule_of_push8 fun _ => rfl⟩

/-! Pulls (45_stack.md R201, R208 to R211). -/

/-- A pull steps `SP` up and reads there, and changes nothing else. -/
theorem pull8_eq (s : State) :
    pull8 s = (answer s (stackAt (s.sp + 1#8)), { s with
      sp := s.sp + 1#8
      bus := .read (stackAt (s.sp + 1#8)) (answer s (stackAt (s.sp + 1#8))) :: s.bus }) := by
  rw [← stackAddr_eq_stackAt]
  rfl

theorem pullRule_of_pull8 {i : Instr} {put : State → Byte → State}
    (hexec : ∀ s, exec i s = .next (put { (pull8 s).2 with p := setNZ (pull8 s).1 s.p } (pull8 s).1)) :
    PullRule i put := fun s =>
  ⟨s.sp + 1#8, _, BitVec.toNat_add s.sp 1#8, rfl, by rw [hexec, pull8_eq, setNZ_eq_nz]⟩

/-- Settles O30: the rows of the opcode map, and the register that each instruction pulls. -/
theorem pullsLoadFromTheStack : Obligations.PullsLoadFromTheStack :=
  ⟨⟨encOp_of_entryOf rfl, encOp_of_entryOf rfl, encOp_of_entryOf rfl⟩, pullRule_of_pull8 fun _ => rfl,
    pullRule_of_pull8 fun _ => rfl, pullRule_of_pull8 fun _ => rfl⟩

/-- Unpacking gives each flag its bit of the byte. -/
theorem unpackP_eq_flagsOf (v : Byte) : unpackP v = flagsOf v := rfl

/-- Settles O31: the row of the opcode map, and the byte pulled spread over the flags. -/
theorem plpSetsEveryFlag : Obligations.PlpSetsEveryFlag :=
  ⟨encOp_of_entryOf rfl, fun s => ⟨s.sp + 1#8, _, BitVec.toNat_add s.sp 1#8, rfl, by
    rw [← unpackP_eq_flagsOf, ← stackAddr_eq_stackAt]
    rfl⟩⟩

/-! Words (45_stack.md R202). -/

theorem hiByte_eq_extractLsb' (w : Word) : hiByte w = w.extractLsb' 8 8 := by
  rw [hiByte, BitVec.extractLsb', Nat.shiftRight_eq_div_pow]

theorem loByte_eq_extractLsb' (w : Word) : loByte w = w.extractLsb' 0 8 := rfl

theorem stackAt_sub_one_ne (sp : Byte) : stackAt (sp - 1#8) ≠ stackAt sp := by
  rw [← stackAddr_eq_stackAt, ← stackAddr_eq_stackAt, Ne, stackAddr_inj]
  bv_omega

/-- Memory after a word is pushed: its high byte at the stack pointer and its low byte below it. -/
theorem push16_memoryAfter (w : Word) (s : State) :
    MemoryAfter [(stackAt s.sp, hiByte w), (stackAt (s.sp - 1#8), loByte w)] s (push16 w s) :=
  memoryAfter_push8 (push8_memoryAfter (hiByte w) s) rfl
    (fun _ hmem => stackAt_sub_one_ne s.sp (Prod.mk.inj (List.mem_singleton.mp hmem)).1) (loByte w)

theorem push16_bus (w : Word) (s : State) :
    (push16 w s).bus = .write (stackAt (s.sp - 1#8)) (loByte w) :: .write (stackAt s.sp) (hiByte w) :: s.bus := by
  rw [← stackAddr_eq_stackAt, ← stackAddr_eq_stackAt]
  rfl

theorem push16_sp_toNat (w : Word) (s : State) : (push16 w s).sp.toNat = (s.sp.toNat + 254) % 256 := by
  rw [show (push16 w s).sp = s.sp - 2#8 from BitVec.sub_sub s.sp 1#8 1#8]
  exact BitVec.toNat_sub' s.sp 2#8

/-- Pulling a word reads its low byte and then its high byte, and changes `SP` and the record of transactions. -/
theorem pull16_eq_readSeq (s : State) :
    ∃ l h : Byte, (readSeq [stackAt (s.sp + 1#8), stackAt (s.sp + 2#8)] s).1 = [l, h] ∧
      pull16 s =
        (word h l, { (readSeq [stackAt (s.sp + 1#8), stackAt (s.sp + 2#8)] s).2 with sp := s.sp + 2#8 }) := by
  have hsp : s.sp + 2#8 = s.sp + 1#8 + 1#8 := (BitVec.add_assoc s.sp 1#8 1#8).symm
  rw [hsp, ← stackAddr_eq_stackAt, ← stackAddr_eq_stackAt]
  exact ⟨_, _, rfl, rfl⟩

/-- A read of plain memory answers the byte stored there, in any state `t` with the memory that the writes left. -/
theorem answer_of_memoryAfter {writes : List (Word × Byte)} {s u t : State} {addr : Word} {v : Byte}
    (h : MemoryAfter writes s u) (hmem : t.mem = u.mem) (hdevices : t.devices = s.devices)
    (hwritten : (addr, v) ∈ writes) (hplain : isDevice s addr = false) : answer t addr = v := by
  rw [answer_plain ((isDevice_congr hdevices addr).trans hplain), peek_congr hmem]
  exact h.stored addr v hwritten hplain

/-- On a stack in plain memory a word pushed is the word pulled, and the stack pointer is back where it was. -/
theorem pull16_push16 (w : Word) (s : State) (hhi : isDevice s (stackAt s.sp) = false)
    (hlo : isDevice s (stackAt (s.sp - 1#8)) = false) :
    (pull16 (push16 w s)).1 = w ∧ (pull16 (push16 w s)).2.sp = s.sp := by
  have hmem := push16_memoryAfter w s
  have hsp : (push16 w s).sp + 1#8 = s.sp - 1#8 := BitVec.sub_add_cancel (s.sp - 1#8) 1#8
  have hsp' : s.sp - 1#8 + 1#8 = s.sp := BitVec.sub_add_cancel s.sp 1#8
  have hlow : answer (push16 w s) (stackAt (s.sp - 1#8)) = loByte w :=
    answer_of_memoryAfter hmem rfl rfl (List.mem_cons_of_mem _ (List.mem_singleton_self _)) hlo
  have hhigh : answer (pull8 (push16 w s)).2 (stackAt s.sp) = hiByte w :=
    answer_of_memoryAfter hmem rfl rfl List.mem_cons_self hhi
  rw [pull16_eq, stackAddr_eq_stackAt, stackAddr_eq_stackAt, hsp, hsp', hlow, hhigh, mkWord_hi_lo]
  exact ⟨rfl, by rw [pull8_sp, pull8_sp, hsp, hsp']⟩

/-- Settles O33: what a push of a word writes, what a pull of a word reads, and that the pull undoes the push. -/
theorem pushedWordPullsBack : Obligations.PushedWordPullsBack := by
  refine ⟨fun w s => ?_, pull16_eq_readSeq, pull16_push16⟩
  simp only [← hiByte_eq_extractLsb', ← loByte_eq_extractLsb']
  exact ⟨push16_memoryAfter w s, push16_bus w s, push16_sp_toNat w s⟩

end Sys2Proof.Machine
end

section
/-! PROOFS. The family 46_control_flow.md: where a branch, a jump and a return go, what a call pushes, and that a return
undoes the call or the interrupt entry before it. -/

namespace Sys2Proof.Machine

open Sys2Proof.Stmt

/-! Branches (46_control_flow.md R220 to R229). -/

/-- A branch offset is added as a signed number, modulo 65536. -/
theorem add_sext16_toNat (w : Word) (v : Byte) :
    ((w + sext16 v).toNat : Int) = ((w.toNat : Int) + v.toInt) % 65536 := by
  have hsext : ((sext16 v).toNat : Int) = v.toInt % 65536 := by
    rw [sext16, BitVec.signExtend, BitVec.toNat_ofInt]
    omega
  rw [BitVec.toNat_add, Int.natCast_emod, Int.natCast_add, hsext]
  exact Int.add_emod_emod ..

/-- An instruction that branches on `flag` follows the condition that `flag` decides. -/
theorem branchRule_of_branch {f : Byte → Instr} {flag : State → Bool} {cond : State → Prop}
    (hexec : ∀ rel s, exec (f rel) s = .next (branch (flag s) rel s)) (hflag : ∀ s, flag s = true ↔ cond s) :
    BranchRule f cond := by
  refine fun rel s => ⟨branch (flag s) rel s, hexec rel s, branch_eq (flag s) rel s, fun htaken => ?_, fun hnot => ?_⟩
  · rw [(hflag s).mpr htaken]
    exact add_sext16_toNat s.pc rel
  · rw [Bool.eq_false_iff.mpr (hnot ∘ (hflag s).mp)]
    rfl

/-- Settles O34: the rows of the opcode map, and the flag that each branch tests. -/
theorem branchesFollowTheirCondition : Obligations.BranchesFollowTheirCondition :=
  ⟨⟨encB8_of_entryOf rfl, encB8_of_entryOf rfl, encB8_of_entryOf rfl, encB8_of_entryOf rfl, encB8_of_entryOf rfl,
      encB8_of_entryOf rfl, encB8_of_entryOf rfl, encB8_of_entryOf rfl, encB8_of_entryOf rfl⟩,
    branchRule_of_branch (fun _ _ => rfl) fun s => (Bool.not_eq_true' s.p.c).to_iff,
    branchRule_of_branch (fun _ _ => rfl) fun _ => Iff.rfl,
    branchRule_of_branch (fun _ _ => rfl) fun _ => Iff.rfl,
    branchRule_of_branch (fun _ _ => rfl) fun s => (Bool.not_eq_true' s.p.z).to_iff,
    branchRule_of_branch (fun _ _ => rfl) fun _ => Iff.rfl,
    branchRule_of_branch (fun _ _ => rfl) fun s => (Bool.not_eq_true' s.p.n).to_iff,
    branchRule_of_branch (fun _ _ => rfl) fun s => (Bool.not_eq_true' s.p.v).to_iff,
    branchRule_of_branch (fun _ _ => rfl) fun _ => Iff.rfl,
    branchRule_of_branch (fun _ _ => rfl) fun _ => iff_true_intro rfl⟩

/-! Jumps (46_control_flow.md R230). -/

/-- A pointer is read low byte first, and the word at it is made of the two bytes. -/
theorem memRead16_eq_readSeq (addr : Word) (s : State) :
    ∃ l h : Byte, (readSeq [addr, addr + 1#16] s).1 = [l, h] ∧
      memRead16 addr s = (word h l, (readSeq [addr, addr + 1#16] s).2) :=
  ⟨_, _, rfl, rfl⟩

/-- JMP takes the effective address and keeps of the resolver the record of transactions. -/
theorem exec_jmp (m : Addr) (s : State) :
    exec (.jmp m) s = .next { s with pc := (resolve m s).1, bus := (resolve m s).2.bus } := by
  rw [exec, execJmp, resolve_snd]

/-- A jump through a pointer goes to the word that two reads find there. -/
theorem exec_jmp_of_memRead16 {m : Addr} {s : State} {ptr : Word} (hresolve : resolve m s = memRead16 ptr s) :
    ∃ l h : Byte, (readSeq [ptr, ptr + 1#16] s).1 = [l, h] ∧
      exec (.jmp m) s = .next { (readSeq [ptr, ptr + 1#16] s).2 with pc := word h l } := by
  obtain ⟨l, h, hbytes, hread⟩ := memRead16_eq_readSeq ptr s
  refine ⟨l, h, hbytes, ?_⟩
  rw [exec_jmp, hresolve, hread]
  rfl

/-- Settles O35: the rows of the opcode map, and the pointer of each indirect form. -/
theorem jmpGoesToTheEffectiveAddress : Obligations.JmpGoesToTheEffectiveAddress :=
  ⟨encW16_of_entryOf rfl, encW16_of_entryOf rfl, encW16_of_entryOf rfl,
    fun m s => ⟨_, exec_jmp m s, ⟨rfl, fun _ => rfl⟩, rfl⟩,
    fun w s => ⟨rfl, exec_jmp_of_memRead16 rfl,
      exec_jmp_of_memRead16 (congrArg (memRead16 · s) (add_zext16_eq_ofNat w s.x))⟩⟩

/-! Subroutines (46_control_flow.md R231, R232). -/

/-- What memory is after writes depends on memory alone. -/
theorem memoryAfter_congr {writes : List (Word × Byte)} {s t u : State} (h : MemoryAfter writes s t)
    (hmem : u.mem = t.mem) : MemoryAfter writes s u :=
  ⟨fun addr v hw hplain => (peek_congr hmem addr).trans (h.stored addr v hw hplain),
    fun addr hdevice => (peek_congr hmem addr).trans (h.device addr hdevice),
    fun addr hno => (peek_congr hmem addr).trans (h.others addr hno)⟩

theorem sub_two_eq (sp : Byte) : sp - 2#8 = sp - 1#8 - 1#8 := (BitVec.sub_sub sp 1#8 1#8).symm

/-- Pushing a word changes `SP`, memory and the record of transactions and nothing else. -/
theorem push16_eq (w : Word) (s : State) :
    push16 w s = { s with sp := s.sp - 2#8, mem := (push16 w s).mem, bus := (push16 w s).bus } := by
  rw [sub_two_eq]
  rfl

/-- Pulling a word changes `SP` and the record of transactions and nothing else. -/
theorem pull16_snd (s : State) :
    (pull16 s).2 = { s with sp := (pull16 s).2.sp, bus := (pull16 s).2.bus } := rfl

/-- JSR is the push of the address of its last byte, made in the state that has the target in PC. -/
theorem exec_jsr (w : Word) (s : State) : exec (.jsr w) s = .next (push16 (s.pc - 1#16) { s with pc := w }) := rfl

theorem exec_rts (s : State) : exec .rts s = .next { (pull16 s).2 with pc := (pull16 s).1 + 1#16 } := rfl

/-- Settles O36: the row of the opcode map, and the two writes of the push. -/
theorem jsrPushesTheReturnAddress : Obligations.JsrPushesTheReturnAddress := by
  refine ⟨encW16_of_entryOf rfl, fun w s => ⟨_, exec_jsr w s, ?_⟩⟩
  rw [← hiByte_eq_extractLsb', ← loByte_eq_extractLsb']
  refine ⟨memoryAfter_congr (push16_memoryAfter (s.pc - 1#16) s) rfl, ?_⟩
  rw [← push16_bus]
  exact push16_eq (s.pc - 1#16) { s with pc := w }

/-- Settles O37: the row of the opcode map, and the word pulled, counted on by one. -/
theorem rtsReturnsPastTheAddress : Obligations.RtsReturnsPastTheAddress := by
  refine ⟨encOp_of_entryOf rfl, fun s => ?_⟩
  obtain ⟨l, h, hbytes, hpull⟩ := pull16_eq_readSeq s
  refine ⟨l, h, word h l + 1#16, hbytes, ?_, by rw [exec_rts, hpull]⟩
  rw [BitVec.toNat_add, word, BitVec.toNat_ofNat]
  exact Nat.mod_add_mod ..

/-- Settles O38: RTS pulls the address that JSR pushed, one less than that of the next instruction. -/
theorem rtsUndoesJsr : Obligations.RtsUndoesJsr := by
  intro w s hhi hlo
  obtain ⟨hpc, hsp⟩ := pull16_push16 (s.pc - 1#16) { s with pc := w } hhi hlo
  refine ⟨_, _, exec_jsr w s, exec_rts _, ?_⟩
  rw [pull16_snd, hpc, hsp, BitVec.sub_add_cancel]
  rfl

/-! Return from an interrupt (46_control_flow.md R233, 60_exceptions.md R311). -/

/-- Settles O39: the row of the opcode map, and the three pulls. -/
theorem rtiPullsStatusThenPC : Obligations.RtiPullsStatusThenPC := by
  refine ⟨encOp_of_entryOf rfl, fun s => ?_⟩
  have hsp : s.sp + 2#8 = s.sp + 1#8 + 1#8 := (BitVec.add_assoc s.sp 1#8 1#8).symm
  have hsp' : s.sp + 3#8 = s.sp + 1#8 + 1#8 + 1#8 := by rw [← hsp, BitVec.add_assoc]; rfl
  rw [hsp, hsp', ← stackAddr_eq_stackAt, ← stackAddr_eq_stackAt, ← stackAddr_eq_stackAt]
  exact ⟨_, _, _, rfl, rfl⟩

theorem stackAt_inj {m n : Byte} : stackAt m = stackAt n ↔ m = n := by
  rw [← stackAddr_eq_stackAt, ← stackAddr_eq_stackAt, stackAddr_inj]

/-- Memory after an interrupt entry: PC, high byte first, and the status below it (60_exceptions.md R304). -/
theorem interruptEntry_memoryAfter (vec : Word) (s : State) :
    MemoryAfter [(stackAt s.sp, hiByte s.pc), (stackAt (s.sp - 1#8), loByte s.pc), (stackAt (s.sp - 2#8), packP s.p)]
      s (interruptEntry vec s) := by
  have hfresh (w : Byte) : (stackAt (s.sp - 2#8), w) ∉
      [(stackAt s.sp, hiByte s.pc), (stackAt (s.sp - 1#8), loByte s.pc)] := by
    simp only [List.mem_cons, Prod.mk.injEq, stackAt_inj, List.not_mem_nil, or_false]
    bv_omega
  rw [sub_two_eq] at hfresh ⊢
  exact memoryAfter_congr (memoryAfter_push8 (push16_memoryAfter s.pc s) rfl hfresh (packP s.p))
    (interruptEntry_mem vec s)

/-- On a stack in plain memory the return from an interrupt undoes its entry, with `B` set. -/
theorem interruptReturn_interruptEntry (vec : Word) {s : State} (hhi : isDevice s (stackAt s.sp) = false)
    (hlo : isDevice s (stackAt (s.sp - 1#8)) = false) (hp : isDevice s (stackAt (s.sp - 2#8)) = false) :
    interruptReturn (interruptEntry vec s) = { s with
      suspended := false
      p := { s.p with b := true }
      mem := (interruptEntry vec s).mem
      bus := (interruptReturn (interruptEntry vec s)).bus } := by
  have hmem := interruptEntry_memoryAfter vec s
  have hdevices : (interruptEntry vec s).devices = s.devices := by simp only [interruptEntry_fields]
  have hspP : (interruptEntry vec s).sp + 1#8 = s.sp - 2#8 := by
    simp only [interruptEntry_fields, BitVec.sub_add_cancel, sub_two_eq]
  have hspLo : s.sp - 2#8 + 1#8 = s.sp - 1#8 := by rw [sub_two_eq, BitVec.sub_add_cancel]
  have hspHi : s.sp - 1#8 + 1#8 = s.sp := BitVec.sub_add_cancel s.sp 1#8
  have hstatus : answer (interruptEntry vec s) (stackAt (s.sp - 2#8)) = packP s.p :=
    answer_of_memoryAfter hmem rfl hdevices (by simp) hp
  have hlow : answer (pull8 (interruptEntry vec s)).2 (stackAt (s.sp - 1#8)) = loByte s.pc :=
    answer_of_memoryAfter hmem rfl hdevices (by simp) hlo
  have hhigh : answer (pull8 (pull8 (interruptEntry vec s)).2).2 (stackAt s.sp) = hiByte s.pc :=
    answer_of_memoryAfter hmem rfl hdevices (by simp) hhi
  rw [interruptReturn_eq, hspP, hspLo, hspHi, stackAddr_eq_stackAt, stackAddr_eq_stackAt, stackAddr_eq_stackAt, hstatus,
    hlow, hhigh, unpackP_packP, mkWord_hi_lo]
  simp only [interruptEntry_fields]

/-- Settles O42: the interrupt entry is undone, and BRK enters with PC one past the address of its second byte. -/
theorem rtiUndoesInterruptEntry : Obligations.RtiUndoesInterruptEntry := by
  intro vec s hhi hlo hp
  refine ⟨⟨_, rfl, interruptReturn_interruptEntry vec hhi hlo hp⟩, ?_⟩
  have hbrk := interruptReturn_interruptEntry irqVector (s := { s with pc := s.pc + 1#16, p := { s.p with b := true } })
    hhi hlo hp
  exact ⟨_, _, rfl, rfl, by rw [hbrk], by rw [hbrk], by rw [hbrk]⟩

end Sys2Proof.Machine
end

section
/-! PROOFS. The families 47_system.md and 60_exceptions.md: the system instructions, the interrupt entry, what a boundary
resolves, and the steps that take an interrupt or only wait for one. -/

namespace Sys2Proof.Machine

open Sys2Proof.Stmt

/-! System instructions that write one flag or one latch (47_system.md R241 to R250). -/

/-- Settles O46: the rows of the opcode map, and the latch that each instruction sets. -/
theorem waiSuspendsAndStpHalts : Obligations.WaiSuspendsAndStpHalts :=
  ⟨encOp_of_entryOf rfl, encOp_of_entryOf rfl, fun _ => ⟨rfl, rfl⟩⟩

/-- Settles O47: the rows of the opcode map, and the flag that each instruction writes. -/
theorem flagInstructionsWriteOneFlag : Obligations.FlagInstructionsWriteOneFlag :=
  ⟨⟨encOp_of_entryOf rfl, encOp_of_entryOf rfl, encOp_of_entryOf rfl, encOp_of_entryOf rfl, encOp_of_entryOf rfl,
      encOp_of_entryOf rfl, encOp_of_entryOf rfl, encOp_of_entryOf rfl⟩,
    fun _ => ⟨rfl, rfl, rfl, rfl, rfl, rfl, rfl, rfl⟩⟩

/-! Undefined opcodes (47_system.md R251, 60_exceptions.md R307). -/

theorem exec_undef_of_nop1 {s : State} (hp : s.params.undefPolicy = .nop1) (op : Byte) :
    exec (.undef op) s = .next s := by
  simp only [exec, execUndef, hp]

theorem exec_undef_of_fault {s : State} (hp : s.params.undefPolicy = .fault) (op : Byte) :
    exec (.undef op) s = .fault (.undefinedOpcode op (s.pc - 1#16) s) := by
  simp only [exec, execUndef, hp]

/-- A byte of 30_encoding.md R78 fetched as an opcode is an undefined instruction, and no operand byte is read. -/
theorem fetchInstr_of_mem_undefinedOpcodes {s : State} (h : (fetch8 s).1 ∈ undefinedOpcodes) :
    fetchInstr s = (.undef (fetch8 s).1, (fetch8 s).2) := by
  have hrow := (entryOf_isUndef_iff (fetch8 s).1).mpr h
  unfold fetchInstr
  dsimp only
  cases he : entryOf (fetch8 s).1 with
  | undef => rfl
  | op | sig | b8 | w16 =>
    rw [he] at hrow
    cases hrow

/-- Settles O48: under NOP1 the instruction completes in the state it began in; under FAULT the step ends with the fault,
which carries the state after the fetch of the opcode. -/
theorem undefinedOpcodeFollowsThePolicy : Obligations.UndefinedOpcodeFollowsThePolicy := by
  refine ⟨fun op s hp => exec_undef_of_nop1 hp op, fun s hp hr hh hs hop => ?_⟩
  have hfault := exec_undef_of_fault (s := (fetch8 s).2) hp (fetch8 s).1
  rw [fetch8_pc, BitVec.add_sub_cancel] at hfault
  rw [step_of_running hr hh hs, fetchInstr_of_mem_undefinedOpcodes hop, hfault]
  rfl

/-! Interrupt entry (60_exceptions.md R304) and BRK (47_system.md R240). -/

/-- The state in which an interrupt entry reads its vector, in the words of the entry's rule. -/
theorem interruptSave_eq_stackAt (vec : Word) (s : State) :
    interruptSave s = { s with
      suspended := false
      sp := s.sp - 3#8
      p := { s.p with d := false, i := true }
      mem := (interruptEntry vec s).mem
      bus := .write (stackAt (s.sp - 2#8)) (packP s.p) :: .write (stackAt (s.sp - 1#8)) (loByte s.pc) ::
        .write (stackAt s.sp) (hiByte s.pc) :: s.bus } := by
  have hsp : s.sp - 3#8 = s.sp - 1#8 - 1#8 - 1#8 := by rw [← sub_two_eq, BitVec.sub_sub]; rfl
  rw [hsp, sub_two_eq, ← stackAddr_eq_stackAt, ← stackAddr_eq_stackAt, ← stackAddr_eq_stackAt]
  exact interruptSave_eq s

/-- Every interrupt entry follows the rule: three pushes, then PC from the two bytes of the vector. -/
theorem interruptEntry_entryRule (vec : Word) (s : State) : EntryRule vec s (interruptEntry vec s) := by
  unfold EntryRule
  dsimp only
  rw [← hiByte_eq_extractLsb', ← loByte_eq_extractLsb', ← interruptSave_eq_stackAt]
  obtain ⟨l, h, hbytes, hread⟩ := memRead16_eq_readSeq vec (interruptSave s)
  exact ⟨interruptEntry_memoryAfter vec s, l, h, hbytes, by rw [interruptEntry, hread]⟩

/-- Settles O40: the entry has the memory of its three pushes, and its vector is read after them. -/
theorem interruptEntrySavesAndVectors : Obligations.InterruptEntrySavesAndVectors :=
  interruptEntry_entryRule

/-- BRK with any signature byte (30_encoding.md R76). -/
theorem decode_brk (sig : Byte) (rest : List Byte) : decode (0x00 :: sig :: rest) = .ok (.brk, rest) := by
  rw [decode, show entryOf 0x00 = .sig .brk from rfl, buildInstr]

/-- Settles O41: BRK is the interrupt entry with `B` set and PC one past the signature byte. -/
theorem brkEntersThroughTheIrqVector : Obligations.BrkEntersThroughTheIrqVector :=
  ⟨decode_brk, fun s =>
    ⟨_, rfl, interruptEntry_entryRule irqVector { s with pc := s.pc + 1#16, p := { s.p with b := true } }⟩⟩

/-! The boundary (60_exceptions.md R302, R303). -/

/-- A pending IRQ that is not masked is entered when no NMI is pending. -/
theorem boundary_of_irqPending {s : State} (hn : s.nmiPending = false) (hq : s.irqPending = true) (hi : s.p.i = false) :
    boundary s = interruptEntry irqVector s := by
  simp [boundary, hn, hq, hi]

/-- A boundary with nothing to enter does nothing. -/
theorem boundary_of_nothing {s : State} (hn : s.nmiPending = false) (h : s.irqPending = false ∨ s.p.i = true) :
    boundary s = s := by
  obtain hq | hi := h
  · simp [boundary, hn, hq]
  · simp [boundary, hn, hi]

/-- Settles O43, by the three cases of the boundary. -/
theorem boundaryResolvesNmiThenIrq : Obligations.BoundaryResolvesNmiThenIrq := by
  refine fun s => ⟨fun hn => ?_, fun hn hq hi => ?_, boundary_of_nothing⟩
  · rw [boundary_of_nmiPending hn]
    exact interruptEntry_entryRule nmiVector { s with nmiPending := false }
  · rw [boundary_of_irqPending hn hq hi]
    exact interruptEntry_entryRule irqVector s

/-! Steps and their boundary (60_exceptions.md R300, 70_reset_and_hazards.md R405). -/

theorem step_of_suspended {s : State} (hr : s.wasReset = true) (hh : s.halted = false) (hs : s.suspended = true) :
    step s = .next (boundary s) := by
  simp [step, hr, hh, hs]

/-- Settles O6: what a Suspended step does is its boundary. -/
theorem waitingStepsFetchNothing : Obligations.WaitingStepsFetchNothing := by
  refine ⟨fun s => step_of_halted, fun s hr hh hs => ⟨step_of_suspended hr hh hs, fun hn hnone => ?_⟩⟩
  rw [step_of_suspended hr hh hs, boundary_of_nothing hn hnone]

/-- A step that is not Halted ends with a boundary, which finds the NMI request as the step did. -/
theorem eq_boundary_of_step {s t : State} (h : step s = .next t) (hh : s.halted = false) :
    ∃ u : State, u.nmiPending = s.nmiPending ∧ t = boundary u := by
  obtain ⟨-, ⟨hh', -⟩ | ⟨-, -, rfl⟩ | ⟨-, -, u, hu, rfl⟩⟩ := step_cases h
  · exact absurd (hh.symm.trans hh') Bool.false_ne_true
  · exact ⟨s, rfl, rfl⟩
  · exact ⟨u, by rw [exec_nmiPending hu, fetchInstr_nmiPending], rfl⟩

/-- Settles O44: the step's boundary finds the NMI still pending and enters it, whatever came before. -/
theorem nmiIsServicedBeforeIrq : Obligations.NmiIsServicedBeforeIrq := by
  intro s t hh hn hstep
  obtain ⟨u, hu, rfl⟩ := eq_boundary_of_step hstep hh
  refine ⟨⟨{ u with nmiPending := false }, boundary_of_nmiPending (hu.trans hn)⟩, boundary_nmiPending u,
    step_irqPending hstep, ?_⟩
  simp [boundary_of_nmiPending (hu.trans hn), interruptEntry_fields]

/-- Settles O45: the boundary follows the instruction, and so tests the `I` that it wrote. -/
theorem maskChangesActAtTheSameBoundary : Obligations.MaskChangesActAtTheSameBoundary := by
  intro s hr hh hs hn hq
  have hn' : (fetchInstr s).2.nmiPending = false := by rw [fetchInstr_nmiPending, hn]
  have hq' : (fetchInstr s).2.irqPending = true := by rw [fetchInstr_irqPending, hq]
  refine ⟨fun hcli => ⟨_, ?_, interruptEntry_entryRule irqVector _⟩, fun hsei => ?_⟩
  · have hentered := boundary_of_irqPending
      (s := { (fetchInstr s).2 with p := { (fetchInstr s).2.p with i := false } }) hn' hq' rfl
    rw [step_of_running hr hh hs, hcli]
    exact congrArg Host.Outcome.next hentered
  · have hmasked := boundary_of_nothing
      (s := { (fetchInstr s).2 with p := { (fetchInstr s).2.p with i := true } }) hn' (.inr rfl)
    rw [step_of_running hr hh hs, hsei]
    exact congrArg Host.Outcome.next hmasked

/-- Settles O50: each signal is its one write, and a write of what the NMI latch holds changes nothing. -/
theorem hostSignalsSetTheirLatch : Obligations.HostSignalsSetTheirLatch := fun _ =>
  ⟨rfl, rfl, rfl, fun hn => congrArg _ (raiseNMI_of_nmiPending hn), rfl⟩

end Sys2Proof.Machine
end
